-- ==== Sys2Proof/Word.lean ====
section
/-! DEFINITION. The words of the block: the 16-bit stimulus word (30_encoding.md R54) and the byte every register of the window
is wide (20_memory.md R42). Bit 0 is the least significant bit (00_scope.md R7), as in Lean's `BitVec.getLsbD`. -/

namespace Sys2Proof

/-- One stimulus: a bus access or an input event (R54). -/
abbrev StimulusWord := BitVec 16

/-- The one access width of the window (R42, R43). -/
abbrev Byte := BitVec 8

end Sys2Proof
end

