-- ==== Sys2Proof/Config.lean ====
section
/-! DEFINITION. What an implementation fixes (00_scope.md R6), the events that cross the block's border (R9, 10_state.md R30-R33),
and the free values of everything the spec leaves open (93_implementation_defined.md U1-U7). -/

namespace Sys2Proof

/-! ## Names of the collaborators' parts -/

/-- One of the six voice generators, 0 to 5 (R6 `NVOICES`, R32). -/
abbrev Voice := Fin 6

/-- The voices in ascending order, the order of every loop over them (92 D10). -/
def Voice.all : List Voice := [0, 1, 2, 3, 4, 5]

/-- A parameter kind of a voice (R12, R13; numbered by R63). -/
inductive Kind where
  | vcoFrequency
  | finalGain
  | filterResonance
  | filterFrequency
  | mixerBalance
  | modulationAmount
  | pulseWidth
  | waveSelect
  deriving DecidableEq, Repr, Inhabited

/-- The number of a kind in R63's table. -/
def Kind.index : Kind → Fin 8
  | .vcoFrequency => 0
  | .finalGain => 1
  | .filterResonance => 2
  | .filterFrequency => 3
  | .mixerBalance => 4
  | .modulationAmount => 5
  | .pulseWidth => 6
  | .waveSelect => 7

/-! ## Real numbers (R7)

The block only compares the reals its collaborators supply, and keeps them. A state holds such a real as its mark on a scale, the
scale being a free order automorphism of the reals. Laws/Reals.lean proves that no real is left out: every sequence of reals has a
scale on which each of them has a mark (assumption log 11). -/

/-- A real number supplied by a collaborator, by its place on the scale. -/
structure RealMark where
  pos : Rat
  deriving DecidableEq, Repr, Inhabited

/-- The real at a mark, on a scale moved so that the number `anchor` stands at its own mark. -/
def realOn (scale : ℝ ≃o ℝ) (anchor : Rat) (m : RealMark) : ℝ := anchor + (scale m.pos - scale anchor)

/-- The scale of this hardware's collaborators, a free value. -/
opaque Config.scale : ℝ ≃o ℝ

/-- The real at a mark. -/
def realAt (anchor : Rat) (m : RealMark) : ℝ := realOn Config.scale anchor m

/-- The frequency in Hz at a mark (10_state.md R27); the mark 0 is 0.0 Hz. -/
def RealMark.hertz (m : RealMark) : ℝ := realAt 0 m

/-- A gain or voltage a voice holds: a number the block has set, or the real it held when no number was set yet (R30). -/
inductive Level where
  | exact (q : Rat)
  | supplied (m : RealMark)
  deriving DecidableEq, Repr, Inhabited

/-- The real number of a level. -/
def Level.value : Level → ℝ
  | .exact q => q
  | .supplied m => realAt 0 m

/-- The one-bit output lines of R30. -/
inductive Line where
  | clk0
  | gate0
  | gate1
  | irq
  | nmi
  | clkmon
  | dataSent
  | uartRxd
  deriving DecidableEq, Repr, Inhabited

/-- One entry of the output trace: an `emit` or a `call` of R9. The gains and voltages the block sets are rationals: 0.0 and 1.0
(40_counter_gate.md R72) and multiples of 1/512 (41_dac_chipselect.md R100). -/
inductive OutEvent where
  | line (ln : Line) (level : Bool)
  | setOutputGain (i : Voice) (g : Rat)
  | setVoltage (i : Voice) (k : Kind) (v : Rat)
  | timerRead (off : BitVec 2)
  | timerWrite (off : BitVec 2) (data : Byte)
  deriving DecidableEq, Repr

/-- Everything emitted and called so far: what the collaborators have seen of the block (R32). -/
abbrev History := List OutEvent

/-- A voice parameter read back (R32): a real number, or not a number (92 D19, 93 U15). -/
inductive ReadBack where
  | num (m : RealMark)
  | notANumber
  deriving DecidableEq, Repr, Inhabited

/-- The events the interval timer raises at one point of a step, in order, each with the events raised while its own rule runs
(R44, R31). A tree, since an OUT0 event drives GATE1, to which the timer listens in turn (assumption log 4, 5). -/
inductive TimerChain where
  | done
  | out0 (level : Bool) (inner rest : TimerChain)
  | out2 (level : Bool) (rest : TimerChain)
  deriving DecidableEq, Repr, Inhabited

/-- An event the UART raises (R33, R111). Neither makes the UART raise another (R112, R113 emit on no line of the UART's). -/
inductive UartEvent where
  | irq (level : Bool)
  | txd (level : Bool)
  deriving DecidableEq, Repr, Inhabited

/-- The CPU's address spaces (R37, 90_conflicts.md C7). -/
inductive AddressSpace where
  | io
  | memory
  deriving DecidableEq, Repr, Inhabited

/-- Where the register window lies: `IO_BASE`, `IO_SPACE` (I/O space unless a board overrides it) and `IO_MIRROR`, the address
bits the window ignores (none by default) (R6, R37, 92 D3; assumption log 26). -/
structure Window where
  base : Nat
  space : AddressSpace := .io
  mirror : Nat := 0
  deriving DecidableEq, Repr, Inhabited

namespace Config

/-! ## Fixed parameters (R6) -/

/-- `GAIN_THRESHOLD` (90_conflicts.md C6). -/
def gainThreshold : Rat := 10

/-- `RESONANCE_THRESHOLD`. -/
def resonanceThreshold : Rat := 9 / 10

/-- The number the marks of a parameter's read-backs are anchored at: the one the block compares them with
(40_counter_gate.md R81). -/
def anchor : Kind → Rat
  | .finalGain => gainThreshold
  | .filterResonance => resonanceThreshold
  | _ => 0

/-- `UART_CLK_HZ`, of the reference hardware (R143). -/
def uartClkHz : Rat := 500000

/-! ## Free values

Each is applied to the moment (`State.draws`, which every use advances) and to the history of the block's outputs, so that it may
differ from use to use and depend on every call made before (R32, R39; assumption log 3). None has a body. -/

/-- `IO_BASE` (R6, U12). -/
opaque ioBase : Nat

/-- `OPEN_BUS`, the byte an unmapped read returns (R39, U1). -/
opaque openBus : Nat → History → BitVec 4 → Byte

/-- `RESET_C0OUT` (R25, U2). -/
opaque resetC0out : Nat → History → Bool

/-- The level of a line after reset, before its first emit (R30, U3). -/
opaque lineAtReset : Nat → History → Line → Bool

/-- `VOICE_GAIN_AT_RESET` (R6, R131, U4). -/
opaque voiceGainAtReset : Nat → History → Voice → RealMark

/-- `VOICE_VOLTAGE` after reset, before its first emit (R30). -/
opaque voiceVoltAtReset : Nat → History → Voice → Kind → RealMark

/-- The byte `Timer.read(off)` answers (R31, R83, U6). -/
opaque timerRead : Nat → History → BitVec 2 → Byte

/-- The events the timer raises at a call into it or at an emit on a line it hears (R31, R44, U6). -/
opaque timerChain : Nat → History → TimerChain

/-- The events the UART raises at an emit on its receive-data line (R33, R111, U7). -/
opaque uartChain : Nat → History → List UartEvent

/-- `VoiceParam(i, kind)` at this moment (R32, U5). -/
opaque voiceParam : Nat → History → Voice → Kind → ReadBack

/-- What the agents of R53 supply when no stimulus was placed (U9; assumption log 2). -/
opaque agentWord : Nat → History → StimulusWord

end Config

/-- The collaborators and the other open values as one record, so that the operations of Machine/Ops.lean can be read, tested
and proved for any of them; the machine runs them with `Config.env`, the free values. -/
structure Env where
  openBus : Nat → History → BitVec 4 → Byte
  resetC0out : Nat → History → Bool
  lineAtReset : Nat → History → Line → Bool
  voiceGainAtReset : Nat → History → Voice → RealMark
  voiceVoltAtReset : Nat → History → Voice → Kind → RealMark
  timerRead : Nat → History → BitVec 2 → Byte
  timerChain : Nat → History → TimerChain
  uartChain : Nat → History → List UartEvent
  voiceParam : Nat → History → Voice → Kind → ReadBack
  agentWord : Nat → History → StimulusWord

/-- The free values. -/
def Config.env : Env where
  openBus := Config.openBus
  resetC0out := Config.resetC0out
  lineAtReset := Config.lineAtReset
  voiceGainAtReset := Config.voiceGainAtReset
  voiceVoltAtReset := Config.voiceVoltAtReset
  timerRead := Config.timerRead
  timerChain := Config.timerChain
  uartChain := Config.uartChain
  voiceParam := Config.voiceParam
  agentWord := Config.agentWord

/-- The window of this hardware: base open, I/O space, no mirroring (R6). -/
def Config.window : Window := { base := Config.ioBase }

end Sys2Proof
end

