-- ==== Sys2Proof/Syntax.lean ====
section
/-! DEFINITION. The stimuli: one constructor per row of opcode_table.json (30_encoding.md R54-R58; assumption log 21). `OPEN_RD`
and `IGNORE_WR` have four rows each, one per gap of the window; a row of several offsets keeps the window offset as R67 writes
it, and WellFormed.lean says which offsets the row has. -/

namespace Sys2Proof

inductive Instr where
  /-- `TIMER_RD(off)`, word 0x0o00, o in 0..3 (R83). -/
  | timerRd (off : BitVec 2)
  /-- `TIMER_WR(off, data)`, word 0x1odd, o in 0..3 (R84). -/
  | timerWr (off : BitVec 2) (data : Byte)
  /-- `STATE_RD`, word 0x0800 (R77). -/
  | stateRd
  /-- `CTRL_WR(data)`, word 0x18dd (R71). -/
  | ctrlWr (data : Byte)
  /-- `DACH_WR(data)`, word 0x1Add (R93). -/
  | dachWr (data : Byte)
  /-- `DACL_WR(data)`, word 0x1Bdd (R94). -/
  | daclWr (data : Byte)
  /-- `REGSEL_WR(data)`, word 0x1Cdd (R97). -/
  | regselWr (data : Byte)
  /-- `CSEL_WR(data)`, word 0x1Edd (R98). -/
  | cselWr (data : Byte)
  /-- `OPEN_RD(off)`, offsets 0x4 to 0x7 (R39). -/
  | openRd4 (off : BitVec 4)
  /-- `OPEN_RD(0x9)` (R39). -/
  | openRd9
  /-- `OPEN_RD(off)`, offsets 0xA and 0xB (R39). -/
  | openRdA (off : BitVec 4)
  /-- `OPEN_RD(off)`, offsets 0xC to 0xF (R39). -/
  | openRdC (off : BitVec 4)
  /-- `IGNORE_WR(off, data)`, offsets 0x4 to 0x7 (R39). -/
  | ignoreWr4 (off : BitVec 4) (data : Byte)
  /-- `IGNORE_WR(0x9, data)` (R39). -/
  | ignoreWr9 (data : Byte)
  /-- `IGNORE_WR(0xD, data)` (R39). -/
  | ignoreWrD (data : Byte)
  /-- `IGNORE_WR(0xF, data)` (R39). -/
  | ignoreWrF (data : Byte)
  /-- `RESET`, word 0x8000 (R130). -/
  | reset
  /-- `CAL_TICK`, word 0x8100 (R79). -/
  | calTick
  /-- `OUT0(l)`, word 0x820l (R80). -/
  | out0 (level : Bool)
  /-- `OUT2(l)`, word 0x830l (R85). -/
  | out2 (level : Bool)
  /-- `UART_CLK(l)`, word 0x840l (R107). -/
  | uartClk (level : Bool)
  /-- `UART_IRQ(l)`, word 0x850l (R113). -/
  | uartIrq (level : Bool)
  /-- `UART_TXD(l)`, word 0x860l (R112). -/
  | uartTxd (level : Bool)
  /-- `SERIAL_IN(l)`, word 0x870l (R111). -/
  | serialIn (level : Bool)
  deriving DecidableEq, Repr

end Sys2Proof
end

