-- ==== Sys2Proof/WellFormed.lean ====
section
/-! DEFINITION. Which terms of `Instr` are stimuli: an unmapped access names an offset of its own row (30_encoding.md R58, R67).
Every other operand fills its type, since every byte is legal (60_exceptions.md R116). -/

namespace Sys2Proof

/-- The offset operand lies in the constructor's row of opcode_table.json. -/
def WellFormed : Instr → Bool
  | .openRd4 off => off.extractLsb' 2 2 == 0b01#2
  | .openRdA off => off.extractLsb' 1 3 == 0b101#3
  | .openRdC off => off.extractLsb' 2 2 == 0b11#2
  | .ignoreWr4 off _ => off.extractLsb' 2 2 == 0b01#2
  | .timerRd _ => true
  | .timerWr _ _ => true
  | .stateRd => true
  | .ctrlWr _ => true
  | .dachWr _ => true
  | .daclWr _ => true
  | .regselWr _ => true
  | .cselWr _ => true
  | .openRd9 => true
  | .ignoreWr9 _ => true
  | .ignoreWrD _ => true
  | .ignoreWrF _ => true
  | .reset => true
  | .calTick => true
  | .out0 _ => true
  | .out2 _ => true
  | .uartClk _ => true
  | .uartIrq _ => true
  | .uartTxd _ => true
  | .serialIn _ => true

end Sys2Proof
end

