-- ==== Sys2Proof/Decode.lean ====
section
/-! DEFINITION. From stimulus words to stimuli and back (30_encoding.md R54-R58, R66, R67), the opcode table's masks, the assembler
syntax (R68) and the pseudo-operations (R69). -/

namespace Sys2Proof

/-- Why a word is no stimulus (R66 item 3). -/
inductive DecodeError where
  /-- A reserved bit is set (R55, R56). -/
  | reservedBits
  /-- The event code lies in 0x8 to 0xF (R57). -/
  | reservedEventCode
  deriving DecidableEq, Repr

/-! ## Decoding (R67) -/

/-- The unmapped reads, by the row of their offset. -/
def decodeOpenRead (off : BitVec 4) : Instr :=
  if off ≤ 0x7#4 then .openRd4 off
  else if off = 0x9#4 then .openRd9
  else if off ≤ 0xB#4 then .openRdA off
  else .openRdC off

/-- The unmapped writes, by the row of their offset. -/
def decodeIgnoredWrite (off : BitVec 4) (data : Byte) : Instr :=
  if off ≤ 0x7#4 then .ignoreWr4 off data
  else if off = 0x9#4 then .ignoreWr9 data
  else if off = 0xD#4 then .ignoreWrD data
  else .ignoreWrF data

/-- The reads of the window (R58); the data bits of a read are ignored (R66 item 2). -/
def decodeRead (off : BitVec 4) : Instr :=
  if off ≤ 0x3#4 then .timerRd (off.extractLsb' 0 2)
  else if off = 0x8#4 then .stateRd
  else decodeOpenRead off

/-- The writes of the window (R58). -/
def decodeWrite (off : BitVec 4) (data : Byte) : Instr :=
  if off ≤ 0x3#4 then .timerWr (off.extractLsb' 0 2) data
  else if off = 0x8#4 then .ctrlWr data
  else if off = 0xA#4 then .dachWr data
  else if off = 0xB#4 then .daclWr data
  else if off = 0xC#4 then .regselWr data
  else if off = 0xE#4 then .cselWr data
  else decodeIgnoredWrite off data

/-- Format `BUS` (R55). -/
def decodeBus (w : StimulusWord) : Except DecodeError Instr :=
  if w.extractLsb' 13 2 ≠ 0#2 then .error .reservedBits
  else if w.getLsbD 12 then .ok (decodeWrite (w.extractLsb' 8 4) (w.extractLsb' 0 8))
  else .ok (decodeRead (w.extractLsb' 8 4))

/-- An event that carries no level: its bit 0 must be 0 (R56). -/
def decodeBareEvent (level : Bool) (i : Instr) : Except DecodeError Instr :=
  if level then .error .reservedBits else .ok i

/-- Format `EVENT` (R56) with the codes of R57. -/
def decodeEvent (w : StimulusWord) : Except DecodeError Instr :=
  let code := w.extractLsb' 8 4
  let level := w.getLsbD 0
  if w.extractLsb' 12 3 ≠ 0#3 ∨ w.extractLsb' 1 7 ≠ 0#7 then .error .reservedBits
  else if code = 0x0#4 then decodeBareEvent level .reset
  else if code = 0x1#4 then decodeBareEvent level .calTick
  else if code = 0x2#4 then .ok (.out0 level)
  else if code = 0x3#4 then .ok (.out2 level)
  else if code = 0x4#4 then .ok (.uartClk level)
  else if code = 0x5#4 then .ok (.uartIrq level)
  else if code = 0x6#4 then .ok (.uartTxd level)
  else if code = 0x7#4 then .ok (.serialIn level)
  else .error .reservedEventCode

/-- R67, total on every word: bit 15 selects the format (R54). -/
def decode (w : StimulusWord) : Except DecodeError Instr :=
  if w.getLsbD 15 then decodeEvent w else decodeBus w

/-- The host's reading of a row's bits: a stimulus is exactly one 16-bit word (R54), so `nbits` adds nothing to it. -/
def decodeTableWord (_nbits w : Nat) : Option Instr :=
  (decode (BitVec.ofNat 16 w)).toOption

/-! ## Encoding -/

/-- The word of a bus access (R55): `0`, `00`, W, off, data. -/
def busWord (write : Bool) (off : BitVec 4) (data : Byte) : StimulusWord :=
  0b000#3 ++ BitVec.ofBool write ++ off ++ data

/-- The word of an event (R56): `1`, `000`, code, seven zeros, level. -/
def eventWord (code : BitVec 4) (level : Bool) : StimulusWord :=
  0b1000#4 ++ code ++ 0#7 ++ BitVec.ofBool level

/-- The word of a stimulus. An unmapped access contributes the offset bits of its own row; the data bits of a read are written 0
(R55). -/
def encode : Instr → StimulusWord
  | .timerRd off => busWord false (0b00#2 ++ off) 0
  | .timerWr off data => busWord true (0b00#2 ++ off) data
  | .stateRd => busWord false 0x8 0
  | .ctrlWr data => busWord true 0x8 data
  | .dachWr data => busWord true 0xA data
  | .daclWr data => busWord true 0xB data
  | .regselWr data => busWord true 0xC data
  | .cselWr data => busWord true 0xE data
  | .openRd4 off => busWord false (0b01#2 ++ off.extractLsb' 0 2) 0
  | .openRd9 => busWord false 0x9 0
  | .openRdA off => busWord false (0b101#3 ++ off.extractLsb' 0 1) 0
  | .openRdC off => busWord false (0b11#2 ++ off.extractLsb' 0 2) 0
  | .ignoreWr4 off data => busWord true (0b01#2 ++ off.extractLsb' 0 2) data
  | .ignoreWr9 data => busWord true 0x9 data
  | .ignoreWrD data => busWord true 0xD data
  | .ignoreWrF data => busWord true 0xF data
  | .reset => eventWord 0x0 false
  | .calTick => eventWord 0x1 false
  | .out0 level => eventWord 0x2 level
  | .out2 level => eventWord 0x3 level
  | .uartClk level => eventWord 0x4 level
  | .uartIrq level => eventWord 0x5 level
  | .uartTxd level => eventWord 0x6 level
  | .serialIn level => eventWord 0x7 level

/-- A word with the ignored data bits of a bus read written 0, as R55's convention has them; any other word as it is. -/
def canonicalWord (w : StimulusWord) : StimulusWord :=
  if w.getLsbD 15 || w.getLsbD 12 then w else w &&& 0xFF00#16

/-! ## The opcode table's rows -/

/-- The mask and match of a stimulus's row in opcode_table.json: a word is of the row when its masked bits are the match. -/
def opcodeRow : Instr → StimulusWord × StimulusWord
  | .timerRd _ => (0xFC00, 0x0000)
  | .timerWr _ _ => (0xFC00, 0x1000)
  | .stateRd => (0xFF00, 0x0800)
  | .ctrlWr _ => (0xFF00, 0x1800)
  | .dachWr _ => (0xFF00, 0x1A00)
  | .daclWr _ => (0xFF00, 0x1B00)
  | .regselWr _ => (0xFF00, 0x1C00)
  | .cselWr _ => (0xFF00, 0x1E00)
  | .openRd4 _ => (0xFC00, 0x0400)
  | .openRd9 => (0xFF00, 0x0900)
  | .openRdA _ => (0xFE00, 0x0A00)
  | .openRdC _ => (0xFC00, 0x0C00)
  | .ignoreWr4 _ _ => (0xFC00, 0x1400)
  | .ignoreWr9 _ => (0xFF00, 0x1900)
  | .ignoreWrD _ => (0xFF00, 0x1D00)
  | .ignoreWrF _ => (0xFF00, 0x1F00)
  | .reset => (0xFFFF, 0x8000)
  | .calTick => (0xFFFF, 0x8100)
  | .out0 _ => (0xFFFE, 0x8200)
  | .out2 _ => (0xFFFE, 0x8300)
  | .uartClk _ => (0xFFFE, 0x8400)
  | .uartIrq _ => (0xFFFE, 0x8500)
  | .uartTxd _ => (0xFFFE, 0x8600)
  | .serialIn _ => (0xFFFE, 0x8700)

/-- The word has the fixed bits of the stimulus's row. -/
def inRow (i : Instr) (w : StimulusWord) : Prop :=
  w &&& (opcodeRow i).1 = (opcodeRow i).2

/-! ## Assembler syntax (R68) -/

/-- A number as `0x` and hexadecimal digits, at least `width` of them. -/
def hexText (width n : Nat) : String :=
  let digits := (Nat.toDigits 16 n).map Char.toUpper
  "0x" ++ String.ofList (List.replicate (width - digits.length) '0' ++ digits)

def readText (off : String) : String := "RD " ++ off

def writeText (off : String) (data : Byte) : String := "WR " ++ off ++ ", " ++ hexText 2 data.toNat

def eventText (mnemonic : String) (level : Bool) : String :=
  "EV " ++ mnemonic ++ ", " ++ (if level then "1" else "0")

/-- `TIMER0` to `TIMER3`. -/
def timerName (off : BitVec 2) : String := "TIMER" ++ toString off.toNat

/-- The line of R68's assembler that a stimulus is written as. -/
def assembly : Instr → String
  | .timerRd off => readText (timerName off)
  | .timerWr off data => writeText (timerName off) data
  | .stateRd => readText "STATE"
  | .ctrlWr data => writeText "CTRL" data
  | .dachWr data => writeText "DACH" data
  | .daclWr data => writeText "DACL" data
  | .regselWr data => writeText "REGSEL" data
  | .cselWr data => writeText "CSEL" data
  | .openRd4 off => readText (hexText 1 off.toNat)
  | .openRd9 => readText "0x9"
  | .openRdA off => readText (hexText 1 off.toNat)
  | .openRdC off => readText (hexText 1 off.toNat)
  | .ignoreWr4 off data => writeText (hexText 1 off.toNat) data
  | .ignoreWr9 data => writeText "0x9" data
  | .ignoreWrD data => writeText "0xD" data
  | .ignoreWrF data => writeText "0xF" data
  | .reset => "EV RESET"
  | .calTick => "EV CAL_TICK"
  | .out0 level => eventText "OUT0" level
  | .out2 level => eventText "OUT2" level
  | .uartClk level => eventText "UART_CLK" level
  | .uartIrq level => eventText "UART_IRQ" level
  | .uartTxd level => eventText "UART_TXD" level
  | .serialIn level => eventText "SERIAL_IN" level

/-! ## Pseudo-operations (R69) -/

/-- `DACSET v`: the two half writes that leave `DAC = v`. -/
def dacset (v : BitVec 12) : List Instr :=
  [.dachWr (v.extractLsb' 6 6 ++ 0#2), .daclWr (v.extractLsb' 0 6 ++ 0#2)]

/-- `VOICESET i, k, v`: deselect, select the kind, load the latch, select voice `i`. -/
def voiceset (i : Voice) (k : BitVec 3) (v : BitVec 12) : List Instr :=
  [.cselWr 0, .regselWr (k.setWidth 8)] ++ dacset v ++ [.cselWr (1#8 <<< i.val)]

end Sys2Proof
end

