-- ==== Sys2Proof/Machine/State.lean ====
section
/-! DEFINITION. The state of the block (10_state.md R15-R36), the reasons a step can stop, and the state after reset (R35). -/

namespace Sys2Proof.Machine

/-- The block raises no exception, traps nothing and has no error state (60_exceptions.md R116), so there is no fault (assumption
log 27). -/
inductive Fault where
  deriving DecidableEq, Repr

/-- Why a step has no meaning. None of these is a hardware event (R116). -/
inductive Refusal where
  /-- Raised by no meaning: an arm of `exec` not yet written. Safe. -/
  | notModelled (mnemonic : String)
  /-- Raised by `step` on a word with a reserved bit set (30_encoding.md R66 item 3). Safe: no such stimulus exists. -/
  | reservedBits (w : StimulusWord)
  /-- Raised by `step` on an event word with a code 0x8 to 0xF (R66 item 3). Safe: no such stimulus exists. -/
  | reservedEventCode (w : StimulusWord)
  /-- Raised by CAL_TICK while `CAL_TIMER = Stopped` (40_counter_gate.md R79, 92 D26). Safe: the event cannot occur. -/
  | calTickWhileStopped
  /-- Raised by `State.restore` on a save that breaks 10_state.md R36 (b) or (c) (93 U16), or R27's f > 0. Safe: outside the spec. -/
  | brokenSave
  deriving DecidableEq, Repr

/-- `CAL_TIMER` (R27): stopped, or running at a frequency, a real number of Hz (`RealMark.hertz`). -/
inductive CalTimer where
  | stopped
  | running (f : RealMark)
  deriving DecidableEq, Repr

/-- The levels of the one-bit output lines (R30). -/
structure Lines where
  clk0 : Bool
  gate0 : Bool
  gate1 : Bool
  irq : Bool
  nmi : Bool
  clkmon : Bool
  dataSent : Bool
  uartRxd : Bool
  deriving DecidableEq, Repr

/-- The machine: the registers and internal bits of R18 to R29, the levels the block drives (R30), the record of what it has
emitted and called (00_scope.md R9), and what the model needs to supply stimuli and free values. -/
structure State where
  /-- `CTRL`, the control register (R18, R19). -/
  ctrl : BitVec 8
  /-- `FF`, the flip-flop (R24). -/
  ff : Bool
  /-- `C0OUT`, the counter-0 OUT value (R25). -/
  c0out : Bool
  /-- `CAL_ARMED` (R26). -/
  calArmed : Bool
  /-- `CAL_TIMER` (R27). -/
  calTimer : CalTimer
  /-- The phase of `CAL_TIMER` (R34): expiries since its last restart, the n of R82. -/
  calPhase : Nat
  /-- `DAC`, the DAC latch (R20). -/
  dac : BitVec 12
  /-- `REGSEL`, the register select (R21). -/
  regsel : BitVec 3
  /-- `CSMASK`, the chip-enable mask (R22). -/
  csmask : BitVec 6
  /-- `UART_IRQ`, the block's copy of the UART's interrupt output (R28). -/
  uartIrq : Bool
  /-- `NMI_OUT` (R29). -/
  nmiOut : Bool
  /-- The one-bit lines (R30). -/
  lines : Lines
  /-- `VOICE_GAIN[i]` (R30). -/
  voiceGain : Vector Level 6
  /-- `VOICE_VOLTAGE[i][k]`, the kinds numbered by 30_encoding.md R63 (R30). -/
  voiceVolt : Vector (Vector Level 8) 6
  /-- The level of the last UART_CLK event since reset; none before the first (42_serial_link.md R110). -/
  extClk : Option Bool
  /-- The byte the last bus read returned to the control CPU (30_encoding.md R55, R65). -/
  readData : Byte
  /-- Every `emit` and `call` so far, oldest first (00_scope.md R9, R12). -/
  trace : History
  /-- The moment the free values are applied to (assumption log 3); the model's own field. -/
  draws : Nat
  /-- The stimuli supplied and not yet processed, next first (20_memory.md R47; assumption log 1); the model's own field. -/
  inbox : List StimulusWord
  deriving DecidableEq, Repr

/-- The line levels after reset: unspecified until their first emit (R30, 70_reset_and_hazards.md R131). -/
def Lines.afterReset (e : Env) (n : Nat) (h : History) : Lines where
  clk0 := e.lineAtReset n h .clk0
  gate0 := e.lineAtReset n h .gate0
  gate1 := e.lineAtReset n h .gate1
  irq := e.lineAtReset n h .irq
  nmi := e.lineAtReset n h .nmi
  clkmon := e.lineAtReset n h .clkmon
  dataSent := e.lineAtReset n h .dataSent
  uartRxd := e.lineAtReset n h .uartRxd

/-- The voices' output gains after reset, `VOICE_GAIN_AT_RESET` (R131). -/
def voiceGainAfterReset (e : Env) (n : Nat) (h : History) : Vector Level 6 :=
  let g := fun i => Level.supplied (e.voiceGainAtReset n h i)
  #v[g 0, g 1, g 2, g 3, g 4, g 5]

/-- One voice's parameter voltages after reset. -/
def voltagesAfterReset (v : Kind → Level) : Vector Level 8 :=
  #v[v .vcoFrequency, v .finalGain, v .filterResonance, v .filterFrequency,
    v .mixerBalance, v .modulationAmount, v .pulseWidth, v .waveSelect]

/-- The voices' parameter voltages after reset: unspecified until their first emit (R30). -/
def voiceVoltAfterReset (e : Env) (n : Nat) (h : History) : Vector (Vector Level 8) 6 :=
  let v := fun i => voltagesAfterReset fun k => .supplied (e.voiceVoltAtReset n h i k)
  #v[v 0, v 1, v 2, v 3, v 4, v 5]

/-- The block right after reset (R35, 70_reset_and_hazards.md R130, R131), with nothing emitted yet and no stimulus supplied. -/
def State.reset : State where
  ctrl := 0x00
  ff := false
  c0out := Config.env.resetC0out 0 []
  calArmed := false
  calTimer := .stopped
  calPhase := 0
  dac := 0
  regsel := 0
  csmask := 0
  uartIrq := false
  nmiOut := false
  lines := Lines.afterReset Config.env 0 []
  voiceGain := voiceGainAfterReset Config.env 0 []
  voiceVolt := voiceVoltAfterReset Config.env 0 []
  extClk := none
  readData := 0x00
  trace := []
  draws := 1
  inbox := []

end Sys2Proof.Machine
end

