-- ==== Sys2Proof/Machine/Flags.lean ====
section
/-! DEFINITION. The block has no flags (10_state.md R17). What a program can observe instead is the counter state (R23), and what
drives the operations is the edge idiom (00_scope.md R10). -/

namespace Sys2Proof.Machine

/-- The bits that change: `diff = old ^ new` (R10). -/
def edges (old new : BitVec w) : BitVec w := old ^^^ new

/-- The rising edges: `diff & new` (R10, 41_dac_chipselect.md R98). -/
def risingEdges (old new : BitVec w) : BitVec w := edges old new &&& new

/-- The counter state read at offset 0x08: bit 0 = `!FF`, bit 1 = `C0OUT`, bits 7:2 = 0 (R23, 40_counter_gate.md R77). -/
def counterState (ff c0out : Bool) : Byte :=
  (BitVec.ofBool c0out ++ BitVec.ofBool (!ff)).setWidth 8

end Sys2Proof.Machine
end

