-- ==== Sys2Proof/Machine/Operands.lean ====
section
/-! DEFINITION. How each operand is assembled from a write's data bits (30_encoding.md R59-R64), the voltage of the DAC latch
(41_dac_chipselect.md R100), and which CPU accesses reach the window at which offset (20_memory.md R37). -/

namespace Sys2Proof.Machine

/-! ## Fields of `CTRL` (10_state.md R19) -/

def audioEn (c : BitVec 8) : Bool := c.getLsbD 0
def gate0Bit (c : BitVec 8) : Bool := c.getLsbD 1
def ffPresetN (c : BitVec 8) : Bool := c.getLsbD 2
def ffD (c : BitVec 8) : Bool := c.getLsbD 3
def ffClearN (c : BitVec 8) : Bool := c.getLsbD 4
def nmiEn (c : BitVec 8) : Bool := c.getLsbD 5

/-! ## Data fields -/

/-- The six bits a DAC half takes, `data[7:2]` (R60, R61). -/
def dacHalf (data : Byte) : BitVec 6 := data.extractLsb' 2 6

/-- `DAC[11:6] <- data[7:2]` (R60). -/
def withHighHalf (dac : BitVec 12) (data : Byte) : BitVec 12 := dacHalf data ++ dac.extractLsb' 0 6

/-- `DAC[5:0] <- data[7:2]` (R61). -/
def withLowHalf (dac : BitVec 12) (data : Byte) : BitVec 12 := dac.extractLsb' 6 6 ++ dacHalf data

/-- `data & 0b111` (R62). -/
def regselOperand (data : Byte) : BitVec 3 := data.extractLsb' 0 3

/-- `data[5:0]` (R64). -/
def maskOperand (data : Byte) : BitVec 6 := data.extractLsb' 0 6

/-- `KIND[n]` (R63). -/
def kindOf (n : BitVec 3) : Kind :=
  if n = 0 then .vcoFrequency
  else if n = 1 then .finalGain
  else if n = 2 then .filterResonance
  else if n = 3 then .filterFrequency
  else if n = 4 then .mixerBalance
  else if n = 5 then .modulationAmount
  else if n = 6 then .pulseWidth
  else .waveSelect

/-- `voltage(d) = d * (8.0/4096.0) - 4.0`, exactly (R100). -/
def voltage (d : BitVec 12) : Rat := (d.toNat : Rat) * (8 / 4096) - 4

/-! ## Strict comparisons with a read-back; not a number compares false (40_counter_gate.md R81, 92 D19)

The order of the marks is the order of the reals (`realAt_lt_realAt`, Laws/Reals.lean), and `q` is the read-back's own anchor. -/

def readsBelow (x : ReadBack) (q : Rat) : Bool :=
  match x with
  | .num m => decide (m.pos < q)
  | .notANumber => false

def readsAbove (x : ReadBack) (q : Rat) : Bool :=
  match x with
  | .num m => decide (q < m.pos)
  | .notANumber => false

/-! ## The window in the CPU's address space (R37) -/

/-- An address with the window's ignored bits cleared. -/
def withoutMirror (win : Window) (addr : Nat) : Nat := addr ^^^ (addr &&& win.mirror)

/-- The window offset an address reaches, if it reaches the window at all (R37). DESIGN CHOICE, unsafe for such a window: the ignored
bits count as 0 when the address is compared with the window, so an offset whose own address `base + off` has an ignored bit set is
reached at no address (assumption log 26). No offset is like that when there are no ignored bits. -/
def windowOffset (win : Window) (space : AddressSpace) (addr : Nat) : Option (BitVec 4) :=
  let a := withoutMirror win addr
  if space = win.space ∧ win.base ≤ a ∧ a ≤ win.base + 15 then some (BitVec.ofNat 4 (a - win.base)) else none

/-- The stimulus word of one CPU access, if it reaches the block (R37, R55). -/
def busStimulus (win : Window) (space : AddressSpace) (addr : Nat) (write : Bool) (data : Byte) :
    Option StimulusWord :=
  (windowOffset win space addr).map fun off => busWord write off data

end Sys2Proof.Machine
end

