-- ==== Sys2Proof/Machine/Ops.lean ====
section
/-! DEFINITION. The shared operations: emitting and calling (00_scope.md R9), chained events (20_memory.md R44), the flip-flop
(40_counter_gate.md R78), the calibration timer (R81), the chip-select procedure and the replay (41_dac_chipselect.md R95-R98), and
the reset (70_reset_and_hazards.md R130). The block takes no exception and returns from none (60_exceptions.md R121, R122): where it
interrupts the CPU it only drives a line (`driveNmi`, `out2Event`). Every operation is total: no step stops half-way (R117). -/

namespace Sys2Proof.Machine

/-! ## Output lines and calls -/

/-- A line takes a level. -/
def setLine (ln : Line) (level : Bool) (l : Lines) : Lines :=
  match ln with
  | .clk0 => { l with clk0 := level }
  | .gate0 => { l with gate0 := level }
  | .gate1 => { l with gate1 := level }
  | .irq => { l with irq := level }
  | .nmi => { l with nmi := level }
  | .clkmon => { l with clkmon := level }
  | .dataSent => { l with dataSent := level }
  | .uartRxd => { l with uartRxd := level }

/-- `emit Line(v)` (R9): the line takes the level, changed or not, and the trace records it. -/
def emitLine (ln : Line) (level : Bool) (s : State) : State :=
  { s with lines := setLine ln level s.lines, trace := s.trace ++ [.line ln level] }

/-- `NMI_OUT <- v; emit NMI(v)` (10_state.md R29). -/
def driveNmi (level : Bool) (s : State) : State :=
  { emitLine .nmi level s with nmiOut := level }

/-- `call Voice.set_output_gain(i, g)` (R32). -/
def setOutputGain (g : Rat) (i : Voice) (s : State) : State :=
  { s with voiceGain := s.voiceGain.set i (.exact g), trace := s.trace ++ [.setOutputGain i g] }

/-- `call Voice.set_voltage(i, k, v)` (R32). -/
def setVoltage (k : Kind) (v : Rat) (i : Voice) (s : State) : State :=
  { s with
    voiceVolt := s.voiceVolt.set i (s.voiceVolt[i].set k.index (.exact v))
    trace := s.trace ++ [.setVoltage i k v] }

/-- A call that only the trace records. -/
def logCall (ev : OutEvent) (s : State) : State :=
  { s with trace := s.trace ++ [ev] }

/-- A free value has been used: the next one is another (assumption log 3). -/
def nextDraw (s : State) : State :=
  { s with draws := s.draws + 1 }

/-! ## Chained events (R44) -/

/-- `OUT0(l)` around whatever the timer chains when GATE1 is driven (R80). -/
def out0Around (level : Bool) (chained : State → State) (s : State) : State :=
  { chained (emitLine .gate1 (!level) s) with c0out := level }

/-- `OUT2(l)` (R85). -/
def out2Event (level : Bool) (s : State) : State :=
  emitLine .irq level s

/-- The timer's chained events, each processed to completion at its place (R44). -/
def runTimerChain : TimerChain → State → State
  | .done, s => s
  | .out0 level inner rest, s => runTimerChain rest (out0Around level (runTimerChain inner) s)
  | .out2 level rest, s => runTimerChain rest (out2Event level s)

/-- The timer may raise events here (R31). -/
def timerMayChain (e : Env) (s : State) : State :=
  runTimerChain (e.timerChain s.draws s.trace) (nextDraw s)

/-- `emit` on a line the timer hears (R31). -/
def emitToTimer (e : Env) (ln : Line) (level : Bool) (s : State) : State :=
  timerMayChain e (emitLine ln level s)

/-- `OUT0(l)` as a stimulus of its own (R80). -/
def out0Event (e : Env) (level : Bool) (s : State) : State :=
  out0Around level (timerMayChain e) s

/-- `UART_TXD(l)` (42_serial_link.md R112). -/
def uartTxdEvent (level : Bool) (s : State) : State :=
  emitLine .dataSent level s

/-- `UART_IRQ(l)` (R113). -/
def uartIrqEvent (level : Bool) (s : State) : State :=
  { s with uartIrq := level }

/-- One event the UART raises. -/
def uartEvent (ev : UartEvent) (s : State) : State :=
  match ev with
  | .irq level => uartIrqEvent level s
  | .txd level => uartTxdEvent level s

/-- The UART's chained events, in order (R44). -/
def runUartChain (evs : List UartEvent) (s : State) : State :=
  evs.foldl (fun t ev => uartEvent ev t) s

/-- `emit UART_RXD(l)`, which the UART hears (R111). -/
def emitToUart (e : Env) (level : Bool) (s : State) : State :=
  let t := emitLine .uartRxd level s
  runUartChain (e.uartChain t.draws t.trace) (nextDraw t)

/-! ## The flip-flop and the calibration timer -/

/-- `set_flip_flop(s)`: the inverted state drives CLK0 on every call, then the state is stored (R78). -/
def setFlipFlop (e : Env) (v : Bool) (s : State) : State :=
  { emitToTimer e .clk0 (!v) s with ff := v }

/-- The frequency a qualifying voice contributes (R81). -/
def selectedFrequency (vp : Kind → ReadBack) : ReadBack :=
  if readsAbove (vp .filterResonance) Config.resonanceThreshold then vp .filterFrequency else vp .vcoFrequency

/-- One turn of R81's loop: `if f > maxf: maxf <- f` for a qualifying voice. -/
def raiseMaximum (maxf : RealMark) (vp : Kind → ReadBack) : RealMark :=
  if readsBelow (vp .finalGain) Config.gainThreshold then
    match selectedFrequency vp with
    | .num f => if maxf.pos < f.pos then f else maxf
    | .notANumber => maxf
  else maxf

/-- R81's running maximum over the six voices. -/
def calibrationMaximum (vp : Voice → Kind → ReadBack) : RealMark :=
  Voice.all.foldl (fun maxf i => raiseMaximum maxf (vp i)) ⟨0⟩

/-- The timer R81 leaves for a maximum. -/
def timerFor (maxf : RealMark) : CalTimer :=
  if 0 < maxf.pos then .running maxf else .stopped

/-- `recompute()`: cancel, and restart at the maximum if that is above 0.0 (R81); either way the phase starts anew (R82). -/
def recompute (e : Env) (s : State) : State :=
  nextDraw { s with
    calTimer := timerFor (calibrationMaximum (e.voiceParam s.draws s.trace))
    calPhase := 0 }

/-! ## DAC latch and chip select -/

/-- `for i in 0..5: if rise[i] = 1: call Voice.set_voltage(i, k, v)` (R98). -/
def applyVoltage (rise : BitVec 6) (k : Kind) (v : Rat) (s : State) : State :=
  Voice.all.foldl (fun t (i : Voice) => if rise.getLsbD i.val then setVoltage k v i t else t) s

/-- `write_chip_select`, from the six mask bits on (R98). -/
def writeChipSelect (e : Env) (mask : BitVec 6) (s : State) : State :=
  let t := { applyVoltage (risingEdges s.csmask mask) (kindOf s.regsel) (voltage s.dac) s with csmask := mask }
  if t.calArmed then recompute e t else t

/-- `replay()`: the mask off and on again, unless all six voices are enabled (R96, 90_conflicts.md C2). -/
def replay (e : Env) (s : State) : State :=
  if s.csmask ≠ 0b111111#6 then writeChipSelect e s.csmask (writeChipSelect e 0 s) else s

/-- `write_dac_half(off, data)`: an odd offset is the low half (R95). -/
def writeDacHalf (e : Env) (off : BitVec 4) (data : Byte) (s : State) : State :=
  replay e { s with dac := if off.getLsbD 0 then withLowHalf s.dac data else withHighHalf s.dac data }

/-! ## Unmapped accesses (20_memory.md R39) -/

/-- An unmapped read: a fresh draw, and nothing else. -/
def openRead (e : Env) (off : BitVec 4) (s : State) : State :=
  nextDraw { s with readData := e.openBus s.draws s.trace off }

/-- An unmapped write: nothing. -/
def ignoredWrite (s : State) : State := s

/-! ## Reset (R130, R131) -/

/-- `RESET()`: the values of R130, the lines and voices unspecified again (R131), no call and no emit. -/
def resetBlock (e : Env) (s : State) : State :=
  nextDraw { s with
    ctrl := 0x00
    ff := false
    c0out := e.resetC0out s.draws s.trace
    calArmed := false
    calTimer := .stopped
    calPhase := 0
    dac := 0
    regsel := 0
    csmask := 0
    uartIrq := false
    nmiOut := false
    lines := Lines.afterReset e s.draws s.trace
    voiceGain := voiceGainAfterReset e s.draws s.trace
    voiceVolt := voiceVoltAfterReset e s.draws s.trace
    extClk := none }

/-- The refusal of a word that is no stimulus (30_encoding.md R66). -/
def refusalOf (err : DecodeError) (w : StimulusWord) : Refusal :=
  match err with
  | .reservedBits => .reservedBits w
  | .reservedEventCode => .reservedEventCode w

/-! ## Which stimulus comes next (20_memory.md R53) -/

/-- Whether an agent can supply the stimulus now: a tick only while the timer runs, a clock event only with the level opposite to
the one before it (R53, R110). -/
def admissible (i : Instr) (s : State) : Bool :=
  match i with
  | .calTick => decide (s.calTimer ≠ .stopped)
  | .uartClk level => decide (s.extClk ≠ some level)
  | _ => true

/-- A supplied word joins the end of the total order of stimuli (R47). -/
def supply (w : StimulusWord) (s : State) : State :=
  { s with inbox := s.inbox ++ [w] }

/-- One access of the control CPU: it is a stimulus only if it reaches the window (R37). -/
def cpuAccess (win : Window) (space : AddressSpace) (addr : Nat) (write : Bool) (data : Byte) (s : State) : State :=
  match busStimulus win space addr write data with
  | some w => supply w s
  | none => s

/-- The stimulus the open agents supply at this moment, if the drawn word is one they can supply (assumption log 2). -/
def agentStimulus (e : Env) (s : State) : Option Instr :=
  (decode (e.agentWord s.draws s.trace)).toOption.filter fun i => admissible i s

/-- `w` placed so that the next step processes it. -/
def placeNext (w : StimulusWord) (s : State) : State :=
  { s with inbox := w :: s.inbox }

end Sys2Proof.Machine
end

