-- ==== Sys2Proof/Machine/BoardReset.lean ====
section
/-! DEFINITION. The board reset (70_reset_and_hazards.md R130, R131). -/

namespace Sys2Proof.Machine

/-- `RESET()` (R130). -/
def execReset (s : State) : Host.Outcome State Fault Refusal :=
  .next (resetBlock Config.env s)

end Sys2Proof.Machine
end

