-- ==== Sys2Proof/Machine/CounterGate.lean ====
section
/-! DEFINITION. The counter/gate chain: CTRL_WR, STATE_RD, CAL_TICK, OUT0, TIMER_RD, TIMER_WR and OUT2 (40_counter_gate.md). -/

namespace Sys2Proof.Machine

/-! ## The control write (R71) -/

/-- Step 1, audio enable: gain calls only when bit 0 changed (R72). -/
def step1Audio (diff data : Byte) (s : State) : State :=
  if audioEn diff then
    Voice.all.foldl (fun t i => setOutputGain (if audioEn data then 1 else 0) i t) s
  else s

/-- Step 2, calibration arm and disarm, only when bit 1 changed (R73). -/
def step2Arm (e : Env) (diff data : Byte) (s : State) : State :=
  if gate0Bit diff then
    if gate0Bit data then
      if s.calArmed then s else recompute e { s with calArmed := true }
    else { s with calTimer := .stopped, calPhase := 0, calArmed := false }
  else s

/-- Step 3, gate of timer channel 0, on every write (R74). -/
def step3Gate0 (e : Env) (data : Byte) (s : State) : State :=
  emitToTimer e .gate0 (gate0Bit data) s

/-- Step 4, flip-flop clear and preset, from the new value (R75). -/
def step4FlipFlop (e : Env) (data : Byte) (s : State) : State :=
  if !ffClearN data then setFlipFlop e false s
  else if !ffPresetN data then setFlipFlop e true s
  else s

/-- Step 5, NMI clear on a falling edge of bit 5 (R76). -/
def step5Nmi (diff data : Byte) (s : State) : State :=
  if nmiEn diff && !nmiEn data then driveNmi false s else s

/-- `CTRL_WR(data)`: the edge set before the store, then the five steps in their order (R71). -/
def controlWrite (e : Env) (data : Byte) (s : State) : State :=
  let diff := edges s.ctrl data
  step5Nmi diff data
    (step4FlipFlop e data
      (step3Gate0 e data
        (step2Arm e diff data
          (step1Audio diff data { s with ctrl := data }))))

def execCtrlWr (data : Byte) (s : State) : Host.Outcome State Fault Refusal :=
  .next (controlWrite Config.env data s)

/-! ## The other stimuli -/

/-- `STATE_RD()` returns the counter state and does nothing else (R77). -/
def execStateRd (s : State) : Host.Outcome State Fault Refusal :=
  .next { s with readData := counterState s.ff s.c0out }

/-- One expiry of the running timer: the phase advances (R82) and the flip-flop samples control bit 3 (R79). -/
def calibrationTick (e : Env) (s : State) : State :=
  setFlipFlop e (ffD s.ctrl) { s with calPhase := s.calPhase + 1 }

/-- `CAL_TICK()`: it exists only while the timer runs (R79, 92 D26). -/
def execCalTick (s : State) : Host.Outcome State Fault Refusal :=
  match s.calTimer with
  | .running _ => .next (calibrationTick Config.env s)
  | .stopped => .refused .calTickWhileStopped

/-- `OUT0(l)` (R80). -/
def execOut0 (level : Bool) (s : State) : Host.Outcome State Fault Refusal :=
  .next (out0Event Config.env level s)

/-- `OUT2(l)` (R85). -/
def execOut2 (level : Bool) (s : State) : Host.Outcome State Fault Refusal :=
  .next (out2Event level s)

/-- `TIMER_RD(off)`: the call, what the timer chains, then its answer to the CPU (R83). -/
def timerReadAccess (e : Env) (off : BitVec 2) (s : State) : State :=
  let t := logCall (.timerRead off) s
  { timerMayChain e t with readData := e.timerRead t.draws t.trace off }

def execTimerRd (off : BitVec 2) (s : State) : Host.Outcome State Fault Refusal :=
  .next (timerReadAccess Config.env off s)

/-- `TIMER_WR(off, data)`: the call and what the timer chains (R84). -/
def timerWriteAccess (e : Env) (off : BitVec 2) (data : Byte) (s : State) : State :=
  timerMayChain e (logCall (.timerWrite off data) s)

def execTimerWr (off : BitVec 2) (data : Byte) (s : State) : Host.Outcome State Fault Refusal :=
  .next (timerWriteAccess Config.env off data s)

end Sys2Proof.Machine
end

