-- ==== Sys2Proof/Machine/DacChipSelect.lean ====
section
/-! DEFINITION. The DAC latch, the register select and the chip select (41_dac_chipselect.md). -/

namespace Sys2Proof.Machine

/-- `DACH_WR(data)`: `write_dac_half(0xA, data)` (R93). -/
def execDachWr (data : Byte) (s : State) : Host.Outcome State Fault Refusal :=
  .next (writeDacHalf Config.env 0xA data s)

/-- `DACL_WR(data)`: `write_dac_half(0xB, data)` (R94). -/
def execDaclWr (data : Byte) (s : State) : Host.Outcome State Fault Refusal :=
  .next (writeDacHalf Config.env 0xB data s)

/-- `REGSEL_WR(data)`: a plain store (R97). -/
def execRegselWr (data : Byte) (s : State) : Host.Outcome State Fault Refusal :=
  .next { s with regsel := regselOperand data }

/-- `CSEL_WR(data)` (R98). -/
def execCselWr (data : Byte) (s : State) : Host.Outcome State Fault Refusal :=
  .next (writeChipSelect Config.env (maskOperand data) s)

end Sys2Proof.Machine
end

