-- ==== Sys2Proof/Machine/SerialLink.lean ====
section
/-! DEFINITION. The serial-link controller: UART_CLK, UART_IRQ, UART_TXD and SERIAL_IN (42_serial_link.md). -/

namespace Sys2Proof.Machine

/-- `UART_CLK(l)`: at a rising edge under `CTRL[5]` the NMI follows `UART_IRQ` (R107, R108), then the inverted level goes out
(R109); the level is kept for R110's alternation. -/
def uartClock (level : Bool) (s : State) : State :=
  emitLine .clkmon (!level)
    ((if level && nmiEn s.ctrl then driveNmi s.uartIrq { s with extClk := some level }
      else { s with extClk := some level }))

def execUartClk (level : Bool) (s : State) : Host.Outcome State Fault Refusal :=
  .next (uartClock level s)

/-- `UART_IRQ(l)` (R113). -/
def execUartIrq (level : Bool) (s : State) : Host.Outcome State Fault Refusal :=
  .next (uartIrqEvent level s)

/-- `UART_TXD(l)` (R112). -/
def execUartTxd (level : Bool) (s : State) : Host.Outcome State Fault Refusal :=
  .next (uartTxdEvent level s)

/-- `SERIAL_IN(l)` (R111). -/
def execSerialIn (level : Bool) (s : State) : Host.Outcome State Fault Refusal :=
  .next (emitToUart Config.env level s)

end Sys2Proof.Machine
end

