-- ==== Sys2Proof/Machine/WindowGaps.lean ====
section
/-! DEFINITION. The unmapped accesses, one meaning per row of opcode_table.json (20_memory.md R39). -/

namespace Sys2Proof.Machine

/-- `OPEN_RD`, offsets 0x4 to 0x7. -/
def execOpenRd4 (off : BitVec 4) (s : State) : Host.Outcome State Fault Refusal :=
  .next (openRead Config.env off s)

/-- `OPEN_RD`, offset 0x9. -/
def execOpenRd9 (s : State) : Host.Outcome State Fault Refusal :=
  .next (openRead Config.env 0x9 s)

/-- `OPEN_RD`, offsets 0xA and 0xB. -/
def execOpenRdA (off : BitVec 4) (s : State) : Host.Outcome State Fault Refusal :=
  .next (openRead Config.env off s)

/-- `OPEN_RD`, offsets 0xC to 0xF. -/
def execOpenRdC (off : BitVec 4) (s : State) : Host.Outcome State Fault Refusal :=
  .next (openRead Config.env off s)

/-- `IGNORE_WR`, offsets 0x4 to 0x7. -/
def execIgnoreWr4 (_off : BitVec 4) (_data : Byte) (s : State) : Host.Outcome State Fault Refusal :=
  .next (ignoredWrite s)

/-- `IGNORE_WR`, offset 0x9. -/
def execIgnoreWr9 (_data : Byte) (s : State) : Host.Outcome State Fault Refusal :=
  .next (ignoredWrite s)

/-- `IGNORE_WR`, offset 0xD. -/
def execIgnoreWrD (_data : Byte) (s : State) : Host.Outcome State Fault Refusal :=
  .next (ignoredWrite s)

/-- `IGNORE_WR`, offset 0xF. -/
def execIgnoreWrF (_data : Byte) (s : State) : Host.Outcome State Fault Refusal :=
  .next (ignoredWrite s)

end Sys2Proof.Machine
end

