-- ==== Sys2Proof/Machine/Dispatch.lean ====
section
/-! DEFINITION. One arm per stimulus. -/

namespace Sys2Proof.Machine

def exec (i : Instr) (s : State) : Host.Outcome State Fault Refusal :=
  match i with
  | .timerRd off => Sys2Proof.Machine.execTimerRd off s
  | .timerWr off data => Sys2Proof.Machine.execTimerWr off data s
  | .stateRd => Sys2Proof.Machine.execStateRd s
  | .ctrlWr data => Sys2Proof.Machine.execCtrlWr data s
  | .dachWr data => Sys2Proof.Machine.execDachWr data s
  | .daclWr data => Sys2Proof.Machine.execDaclWr data s
  | .regselWr data => Sys2Proof.Machine.execRegselWr data s
  | .cselWr data => Sys2Proof.Machine.execCselWr data s
  | .openRd4 off => Sys2Proof.Machine.execOpenRd4 off s
  | .openRd9 => Sys2Proof.Machine.execOpenRd9 s
  | .openRdA off => Sys2Proof.Machine.execOpenRdA off s
  | .openRdC off => Sys2Proof.Machine.execOpenRdC off s
  | .ignoreWr4 off data => Sys2Proof.Machine.execIgnoreWr4 off data s
  | .ignoreWr9 data => Sys2Proof.Machine.execIgnoreWr9 data s
  | .ignoreWrD data => Sys2Proof.Machine.execIgnoreWrD data s
  | .ignoreWrF data => Sys2Proof.Machine.execIgnoreWrF data s
  | .reset => Sys2Proof.Machine.execReset s
  | .calTick => Sys2Proof.Machine.execCalTick s
  | .out0 level => Sys2Proof.Machine.execOut0 level s
  | .out2 level => Sys2Proof.Machine.execOut2 level s
  | .uartClk level => Sys2Proof.Machine.execUartClk level s
  | .uartIrq level => Sys2Proof.Machine.execUartIrq level s
  | .uartTxd level => Sys2Proof.Machine.execUartTxd level s
  | .serialIn level => Sys2Proof.Machine.execSerialIn level s

end Sys2Proof.Machine
end

