-- ==== Sys2Proof/Machine/Step.lean ====
section
/-! DEFINITION. One step processes one stimulus to completion (00_scope.md R2, 20_memory.md R44). The next stimulus is the first of
the inbox; with an empty inbox the open agents supply one or none (R53; assumption log 1, 2). -/

namespace Sys2Proof.Machine

/-- A word placed as the next stimulus. -/
def stepWord (w : StimulusWord) (s : State) : Host.Outcome State Fault Refusal :=
  match decode w with
  | .ok i => exec i s
  | .error err => .refused (refusalOf err w)

/-- No word is placed: an admissible stimulus of the open agents, or nothing at this moment. -/
def stepAgents (s : State) : Host.Outcome State Fault Refusal :=
  match agentStimulus Config.env s with
  | some i => exec i (nextDraw s)
  | none => .next (nextDraw s)

def step (s : State) : Host.Outcome State Fault Refusal :=
  match s.inbox with
  | w :: rest => stepWord w { s with inbox := rest }
  | [] => stepAgents s

/-- A stimulus is one 16-bit word (30_encoding.md R54), placed at the head of the inbox. -/
def State.withFetchWord (s : State) (_nbits w : Nat) : State :=
  placeNext (BitVec.ofNat 16 w) s

end Sys2Proof.Machine
end

