-- ==== Sys2Proof/Machine/Persist.lean ====
section
/-! DEFINITION. Save and restore of a running session (10_state.md R34): the list of what must survive, and the refusal of a save
that breaks R36 (b) or (c) (93 U16) or holds no value of `CAL_TIMER` (R27). How the emulator writes it down is out of scope
(00_scope.md R4). -/

namespace Sys2Proof.Machine

/-- What must survive save and restore (R34, 90_conflicts.md C8, 92 D28). -/
structure Saved where
  ctrl : BitVec 8
  ff : Bool
  c0out : Bool
  calArmed : Bool
  dac : BitVec 12
  regsel : BitVec 3
  csmask : BitVec 6
  uartIrq : Bool
  calTimer : CalTimer
  calPhase : Nat
  nmiOut : Bool
  deriving DecidableEq, Repr

/-- The save of a state. -/
def State.save (s : State) : Saved where
  ctrl := s.ctrl
  ff := s.ff
  c0out := s.c0out
  calArmed := s.calArmed
  dac := s.dac
  regsel := s.regsel
  csmask := s.csmask
  uartIrq := s.uartIrq
  calTimer := s.calTimer
  calPhase := s.calPhase
  nmiOut := s.nmiOut

/-- A value of `CAL_TIMER`: a running timer's frequency is above 0 (R27). -/
def calTimerWf (c : CalTimer) : Bool :=
  match c with
  | .stopped => true
  | .running f => decide (0 < f.pos)

/-- R36 (b) and (c) and R27's `f > 0`, of a save. -/
def savedWf (v : Saved) : Bool :=
  decide (v.calArmed = gate0Bit v.ctrl) && (v.calArmed || decide (v.calTimer = .stopped)) && calTimerWf v.calTimer

/-- The saved state put into a block whose collaborators, lines and stimuli are those of `s`. A stopped timer has no phase (assumption
log 25). DESIGN CHOICE, unsafe: `NMI_OUT` is restored without an emit and without driving the line NMI, which no rule settles
(assumption log 30). -/
def State.restore (v : Saved) (s : State) : Host.Outcome State Fault Refusal :=
  if savedWf v then
    .next { s with
      ctrl := v.ctrl
      ff := v.ff
      c0out := v.c0out
      calArmed := v.calArmed
      dac := v.dac
      regsel := v.regsel
      csmask := v.csmask
      uartIrq := v.uartIrq
      calTimer := v.calTimer
      calPhase := if v.calTimer = .stopped then 0 else v.calPhase
      nmiOut := v.nmiOut }
  else .refused .brokenSave

end Sys2Proof.Machine
end

