-- ==== Sys2Proof/Machine/Timing.lean ====
section
/-! DEFINITION. The only time figures of the spec (70_reset_and_hazards.md section 4), in seconds. No transition depends on them;
they say when a timed run has its stimuli. -/

namespace Sys2Proof.Machine

/-- The n-th expiry after a (re)start at time `t0` with the frequency marked `f`: `t0 + n/f`, n = 1, 2, 3, ...
(40_counter_gate.md R82, R144). -/
def IsExpiryTime (t0 : ℝ) (f : RealMark) (n : Nat) (t : ℝ) : Prop := t = t0 + n / f.hertz

/-- When the next CAL_TICK is due for a timer last restarted at `t0`; never while stopped (R82). -/
def IsNextExpiry (t0 : ℝ) (s : State) (t : ℝ) : Prop :=
  ∃ f, s.calTimer = .running f ∧ IsExpiryTime t0 f (s.calPhase + 1) t

/-- One period of the external UART clock (R143). -/
def uartClkPeriod : Rat := 1 / Config.uartClkHz

/-- The time of the n-th UART_CLK event of a clock that rises at `t0`: the levels last half a period each (R143, 92 D14). -/
def IsUartClkTime (t0 : ℝ) (n : Nat) (t : ℝ) : Prop := t = t0 + n * (uartClkPeriod / 2 : Rat)

end Sys2Proof.Machine
end

