-- ==== Sys2Proof/Safety.lean ====
section
/-! DEFINITION. The terms claims use: the invariants of 10_state.md R36, how to read an output trace (00_scope.md R9, R12), what a
chain of timer events may change (20_memory.md R44), and which infinite runs the spec admits (R53, 42_serial_link.md R110,
70_reset_and_hazards.md R146). -/

namespace Sys2Proof.Machine

/-! ## Invariants -/

/-- R36 (b) and (c), R27's `f > 0`, and the model's own clause that a stopped timer has phase 0 (DEDUCED, assumption log 14). R36 (a)
holds by the type of `DAC`. -/
structure StateInv (s : State) : Prop where
  armed : s.calArmed = gate0Bit s.ctrl
  idle : s.calArmed = false → s.calTimer = .stopped
  positive : ∀ f, s.calTimer = .running f → 0 < f.hertz
  phase : s.calTimer = .stopped → s.calPhase = 0

/-! ## Reading an output trace -/

/-- The level of a line. -/
def lineLevel (ln : Line) (l : Lines) : Bool :=
  match ln with
  | .clk0 => l.clk0
  | .gate0 => l.gate0
  | .gate1 => l.gate1
  | .irq => l.irq
  | .nmi => l.nmi
  | .clkmon => l.clkmon
  | .dataSent => l.dataSent
  | .uartRxd => l.uartRxd

/-- The output of a step from `s` to `t` (R12). -/
def newOutput (s t : State) : History := t.trace.drop s.trace.length

def lineLevelOf (ln : Line) (ev : OutEvent) : Option Bool :=
  match ev with
  | .line m v => if m = ln then some v else none
  | _ => none

/-- The levels emitted on one line, in order. -/
def lineLevels (ln : Line) (out : History) : List Bool := out.filterMap (lineLevelOf ln)

def gainCallOf (ev : OutEvent) : Option (Voice × Rat) :=
  match ev with
  | .setOutputGain i g => some (i, g)
  | _ => none

/-- The `Voice.set_output_gain` calls, in order. -/
def gainCalls (out : History) : List (Voice × Rat) := out.filterMap gainCallOf

def voltageCallOf (ev : OutEvent) : Option (Voice × Kind × Rat) :=
  match ev with
  | .setVoltage i k v => some (i, k, v)
  | _ => none

/-- The `Voice.set_voltage` calls, in order. -/
def voltageCalls (out : History) : List (Voice × Kind × Rat) := out.filterMap voltageCallOf

/-- The level a line has after some output, from the level it had before (R30). -/
def lastLevel (ln : Line) (out : History) (before : Bool) : Bool :=
  (lineLevels ln out).getLastD before

/-! ## Chains of timer events -/

/-- What OUT0 and OUT2 events emit (R80, R85). -/
def isTimerOutput (ev : OutEvent) : Bool :=
  match ev with
  | .line .gate1 _ => true
  | .line .irq _ => true
  | _ => false

/-- All a chain of timer events changes: `C0OUT`, the levels of GATE1 and IRQ, and the trace. -/
def afterTimer (c0out : Bool) (out : History) (s : State) : State :=
  { s with
    c0out := c0out
    lines := { s.lines with
      gate1 := lastLevel .gate1 out s.lines.gate1
      irq := lastLevel .irq out s.lines.irq }
    trace := s.trace ++ out }

/-- The output and the last OUT0 value of a chain of timer events that starts with `C0OUT = before`: `C0OUT` changes only with an
OUT0 event, which drives GATE1 (R36 (e), R80). -/
def TimerRaised (before c0out : Bool) (out : History) : Prop :=
  (∀ ev ∈ out, isTimerOutput ev = true) ∧ (lineLevels .gate1 out = [] → c0out = before)

/-- What a chain of timer events emits: an OUT0 event drives GATE1 inverted, then comes what is chained there (R80, R44), and an OUT2
event drives IRQ (R85). -/
def timerOutput : TimerChain → History
  | .done => []
  | .out0 level inner rest => .line .gate1 (!level) :: (timerOutput inner ++ timerOutput rest)
  | .out2 level rest => .line .irq level :: timerOutput rest

/-- What `C0OUT` is after a chain: each OUT0 event records its level last, so the last one outside any other decides (R80, R44). -/
def recordedOut0 : TimerChain → Bool → Bool
  | .done, before => before
  | .out0 level _ rest, _ => recordedOut0 rest level
  | .out2 _ rest, before => recordedOut0 rest before

/-- The state after a chain of timer events: each event has run its own rule. -/
def afterChain (ch : TimerChain) (s : State) : State :=
  afterTimer (recordedOut0 ch s.c0out) (timerOutput ch) s

/-! ## The output and the chains of a control write (40_counter_gate.md R71) -/

/-- The calls of step 1 (R72). -/
def gainEvents (diff data : Byte) : History :=
  if audioEn diff then Voice.all.map fun i => .setOutputGain i (if audioEn data then 1 else 0) else []

/-- The emit of step 4 (R75). -/
def forcedEvents (data : Byte) : History :=
  if ffClearN data = false then [.line .clk0 true] else if ffPresetN data = false then [.line .clk0 false] else []

/-- The emit of step 5 (R76). -/
def nmiClearEvents (diff data : Byte) : History :=
  if nmiEn diff && !nmiEn data then [.line .nmi false] else []

/-- The moment after step 2, which uses one when it recomputes (R73; assumption log 3). -/
def drawsAfterArm (data : Byte) (s : State) : Nat :=
  if gate0Bit (edges s.ctrl data) && gate0Bit data && !s.calArmed then s.draws + 1 else s.draws

/-- The history up to the GATE0 emit of step 3 (R74). -/
def historyAtGate0 (data : Byte) (s : State) : History :=
  s.trace ++ gainEvents (edges s.ctrl data) data ++ [.line .gate0 (gate0Bit data)]

/-- What the timer chains to the GATE0 emit. -/
def gateChain (e : Env) (data : Byte) (s : State) : TimerChain :=
  e.timerChain (drawsAfterArm data s) (historyAtGate0 data s)

/-- What the timer chains to the CLK0 emit of step 4: nothing without an emit. -/
def clockChain (e : Env) (data : Byte) (s : State) : TimerChain :=
  if forcedEvents data = [] then .done
  else e.timerChain (drawsAfterArm data s + 1)
    (historyAtGate0 data s ++ timerOutput (gateChain e data s) ++ forcedEvents data)

/-- The moment after a control write. -/
def drawsAfterControl (data : Byte) (s : State) : Nat :=
  drawsAfterArm data s + (if forcedEvents data = [] then 1 else 2)

/-! ## Chains of UART events -/

/-- What a UART_TXD event emits (42_serial_link.md R112). -/
def isUartOutput (ev : OutEvent) : Bool :=
  match ev with
  | .line .dataSent _ => true
  | _ => false

/-- All a chain of UART events changes: `UART_IRQ`, the level of DATA_SENT, and the trace. -/
def afterUart (uartIrq : Bool) (out : History) (s : State) : State :=
  { s with
    uartIrq := uartIrq
    lines := { s.lines with dataSent := lastLevel .dataSent out s.lines.dataSent }
    trace := s.trace ++ out }

/-- What a chain of UART events emits: each UART_TXD drives DATA_SENT (R112), a UART_IRQ emits nothing (R113). -/
def uartOutput : List UartEvent → History
  | [] => []
  | .txd level :: evs => .line .dataSent level :: uartOutput evs
  | .irq _ :: evs => uartOutput evs

/-- What `UART_IRQ` is after a chain: the level of the last UART_IRQ event, if any (R113). -/
def recordedUartIrq : List UartEvent → Bool → Bool
  | [], before => before
  | .irq level :: evs, _ => recordedUartIrq evs level
  | .txd _ :: evs, before => recordedUartIrq evs before

/-- The state after a chain of UART events: each event has run its own rule. -/
def afterUartChain (evs : List UartEvent) (s : State) : State :=
  afterUart (recordedUartIrq evs s.uartIrq) (uartOutput evs) s

/-! ## The voices -/

/-- `VOICE_GAIN[i]` (R30). -/
def gainAt (s : State) (i : Voice) : Level := s.voiceGain[i]

/-- `VOICE_VOLTAGE[i][k]` (R30). -/
def voltageAt (s : State) (i : Voice) (k : Kind) : Level := s.voiceVolt[i][k.index]

/-! ## The calibration frequency (40_counter_gate.md R81) -/

/-- The read-back of a parameter of kind `k` is the real number `r`. -/
def ReadsReal (k : Kind) (x : ReadBack) (r : ℝ) : Prop := ∃ m, x = .num m ∧ r = realAt (Config.anchor k) m

/-- The read-back is a real number above 0.9. -/
def HighResonance (vp : Kind → ReadBack) : Prop :=
  ∃ r, ReadsReal .filterResonance (vp .filterResonance) r ∧ 9 / 10 < r

/-- R81 in words: the voice's gain is a real number below 10.0, and `f` marks its filter frequency if its resonance is above 0.9,
else its VCO frequency. -/
def Contributes (vp : Kind → ReadBack) (f : RealMark) : Prop :=
  (∃ g, ReadsReal .finalGain (vp .finalGain) g ∧ g < 10) ∧
    ((HighResonance vp ∧ vp .filterFrequency = .num f) ∨ (¬ HighResonance vp ∧ vp .vcoFrequency = .num f))

/-! ## Runs -/

/-- Several stimuli one after the other (20_memory.md R47), stopping at the first refusal. -/
def execAll : List Instr → State → Host.Outcome State Fault Refusal
  | [], s => .next s
  | i :: is, s =>
    match exec i s with
    | .next t => execAll is t
    | .fault r => .fault r
    | .refused r => .refused r

/-- An infinite run of stimuli the agents can supply (R53). -/
def IsRun (st : Nat → State) (stim : Nat → Instr) : Prop :=
  ∀ n, admissible (stim n) (st n) = true ∧ exec (stim n) (st n) = .next (st (n + 1))

/-- R146: a timer that runs from some point on at one frequency `f` ticks again and again, and so does the UART clock (its levels
alternate by `admissible`). DESIGN CHOICE, safe: R146 does not say whether a timer that stays running while its frequency changes is
owed ticks too; here it is not (assumption log 24). -/
def Fair (st : Nat → State) (stim : Nat → Instr) : Prop :=
  (∀ n f, (∀ m, n ≤ m → (st m).calTimer = .running f) → ∀ k, ∃ m, k ≤ m ∧ stim m = .calTick) ∧
  (∀ k, ∃ m, k ≤ m ∧ ∃ level, stim m = .uartClk level)

/-- Reaching a state by steps from reset, with any stimuli supplied between steps. -/
inductive Reachable : State → Prop where
  | reset : Reachable State.reset
  | supplied (s : State) (w : StimulusWord) : Reachable s → Reachable (supply w s)
  | stepped (s t : State) : Reachable s → step s = .next t → Reachable t

end Sys2Proof.Machine
end

