-- ==== Sys2Proof/Certificates/Slice0/Obligations.lean ====
section
/-! DEFINITION. The statements for the provers, from the numbered rules of spec/. Each docstring says which rules; a clause that
rests on a choice of the spec's own (a decision D<n>) or of the model's (an assumption log entry) says so. -/

open Sys2Proof Sys2Proof.Machine

/-! ## Encoding (30_encoding.md) -/

/-- Decoding the word of a stimulus gives it back, every operand at every value (R54 to R58, R67; the encoding is decision D2). -/
def Obligations.EncodeThenDecodeGivesTheStimulus : Prop :=
  ∀ i : Instr, WellFormed i = true → decode (encode i) = .ok i

/-- A word that decodes is the word of a well-formed stimulus, up to the ignored data bits of a read (R55, R66 item 2). -/
def Obligations.DecodedWordEncodesBack : Prop :=
  ∀ (w : StimulusWord) (i : Instr), decode w = .ok i → WellFormed i = true ∧ encode i = canonicalWord w

/-- Decoding and the rows of opcode_table.json agree: a decoded word has its row's fixed bits, and a word with some row's fixed bits
decodes to a stimulus of that row. -/
def Obligations.DecodeFollowsTheOpcodeTable : Prop :=
  (∀ (w : StimulusWord) (i : Instr), decode w = .ok i → inRow i w) ∧
  ∀ (w : StimulusWord) (i : Instr), inRow i w → ∃ j, decode w = .ok j ∧ opcodeRow j = opcodeRow i

/-- R66 item 3 and R67 (decision D25): a reserved word is refused under its name, and every other word is a stimulus. -/
def Obligations.ReservedWordsAreRefused : Prop :=
  ∀ (s : State) (w : StimulusWord) (rest : List StimulusWord), s.inbox = w :: rest →
    (w.getLsbD 15 = false →
      (w.extractLsb' 13 2 ≠ 0 → step s = .refused (.reservedBits w)) ∧
      (w.extractLsb' 13 2 = 0 → ∃ i, decode w = .ok i)) ∧
    (w.getLsbD 15 = true →
      (w.extractLsb' 12 3 ≠ 0 ∨ w.extractLsb' 1 7 ≠ 0 → step s = .refused (.reservedBits w)) ∧
      (w.extractLsb' 12 3 = 0 → w.extractLsb' 1 7 = 0 →
        (8 ≤ (w.extractLsb' 8 4).toNat → step s = .refused (.reservedEventCode w)) ∧
        ((w.extractLsb' 8 4).toNat < 2 → w.getLsbD 0 = true → step s = .refused (.reservedBits w)) ∧
        ((w.extractLsb' 8 4).toNat < 2 → w.getLsbD 0 = false → ∃ i, decode w = .ok i) ∧
        (2 ≤ (w.extractLsb' 8 4).toNat → (w.extractLsb' 8 4).toNat < 8 → ∃ i, decode w = .ok i)))

/-- A few words of each family, written out from R55 to R58. -/
def Obligations.SampleWordsDecode : Prop :=
  decode 0x0300 = .ok (.timerRd 3) ∧ decode 0x1234 = .ok (.timerWr 2 0x34) ∧ decode 0x08FF = .ok .stateRd ∧
  decode 0x1821 = .ok (.ctrlWr 0x21) ∧ decode 0x1AFC = .ok (.dachWr 0xFC) ∧ decode 0x1B04 = .ok (.daclWr 0x04) ∧
  decode 0x1C03 = .ok (.regselWr 0x03) ∧ decode 0x1E3F = .ok (.cselWr 0x3F) ∧ decode 0x0E00 = .ok (.openRdC 0xE) ∧
  decode 0x1955 = .ok (.ignoreWr9 0x55) ∧ decode 0x8000 = .ok .reset ∧ decode 0x8100 = .ok .calTick ∧
  decode 0x8401 = .ok (.uartClk true) ∧ decode 0x8700 = .ok (.serialIn false)

/-! ## The step -/

/-- A step with a word in the inbox takes the word out and runs the stimulus it decodes to (R2, 20_memory.md R44, R47; the inbox is
the model's, log 1). -/
def Obligations.StepRunsTheDecodedStimulus : Prop :=
  ∀ (s : State) (w : StimulusWord) (rest : List StimulusWord) (i : Instr),
    s.inbox = w :: rest → decode w = .ok i → step s = exec i { s with inbox := rest }

/-- With nothing placed, a step is one admissible stimulus of the open agents or only the passing of the moment (20_memory.md R53;
the model's choice, log 2). -/
def Obligations.EmptyInboxStepIsAnAgentsChoice : Prop :=
  ∀ s : State, s.inbox = [] →
    step s = .next { s with draws := s.draws + 1 } ∨
    ∃ i, WellFormed i = true ∧
      (i = .calTick → s.calTimer ≠ .stopped) ∧ (∀ l, i = .uartClk l → s.extClk ≠ some l) ∧
      step s = exec i { s with draws := s.draws + 1 }

/-- No step faults, and `exec` refuses nothing but a tick of a stopped timer (60_exceptions.md R116, R117; decision D26). -/
def Obligations.OnlyAStoppedTickIsRefused : Prop :=
  ∀ (i : Instr) (s : State),
    (∃ t, exec i s = .next t) ∨
    (i = .calTick ∧ s.calTimer = .stopped ∧ exec i s = .refused .calTickWhileStopped)

/-! ## Invariants (10_state.md R36) -/

/-- R36 (b), (c) and R27's positive frequency hold after every step that starts where they hold, and so does the model's own clause,
that a stopped timer has phase 0 (log 14). -/
def Obligations.StepKeepsTheInvariant : Prop :=
  ∀ s t : State, StateInv s → step s = .next t → StateInv t

/-- They hold after reset: R36 (b), (c) and R27's positive frequency by the spec, the phase 0 of the stopped timer by log 14. -/
def Obligations.ResetStateMeetsTheInvariant : Prop := StateInv State.reset

/-- They hold in every state that steps from reset reach, whatever stimuli are supplied (R36, R88, R90; the phase 0 of a stopped timer
is log 14's). -/
def Obligations.ReachableStatesMeetTheInvariant : Prop :=
  ∀ s : State, Reachable s → StateInv s ∧ ((∃ f, s.calTimer = .running f) → s.ctrl.getLsbD 1 = true)

/-! ## Reset (70_reset_and_hazards.md) -/

/-- The values of R35's table: `CTRL` is the source's; `CAL_ARMED` and `CAL_TIMER` are derived from R26 and R27; `FF`, `DAC`, `REGSEL`,
`CSMASK`, `UART_IRQ` and `NMI_OUT` are decision D5 (log 7); `C0OUT` is the draw of D6 (log 6) at the model's moment 0 (log 3). The last
five clauses are the model's: the phase (log 14), no clock level yet (log 17), the returned byte (log 9), the empty trace (log 23) and
the empty inbox (log 1). -/
def Obligations.ResetStateValues : Prop :=
  State.reset.ctrl = 0 ∧ State.reset.ff = false ∧ State.reset.calArmed = false ∧ State.reset.calTimer = .stopped ∧
  State.reset.dac = 0 ∧ State.reset.regsel = 0 ∧ State.reset.csmask = 0 ∧ State.reset.uartIrq = false ∧
  State.reset.nmiOut = false ∧ State.reset.c0out = Config.resetC0out 0 [] ∧
  State.reset.calPhase = 0 ∧ State.reset.extClk = none ∧ State.reset.readData = 0 ∧ State.reset.trace = [] ∧
  State.reset.inbox = []

/-- `RESET` assigns the values of R130 from any state and emits and calls nothing (R130, R131; decisions D5, D6, D7). The model's own:
the phase 0 (log 14), no clock level yet (log 17), the kept trace, returned byte and inbox (log 29), the moment (log 3), and that
`C0OUT`, the lines and the voices are drawn anew (logs 6, 8). -/
def Obligations.ResetEventAssignsTheResetValues : Prop :=
  ∀ s : State, ∃ lines gain volt,
    exec .reset s = .next { s with
      ctrl := 0, ff := false, c0out := Config.resetC0out s.draws s.trace, calArmed := false, calTimer := .stopped,
      calPhase := 0, dac := 0, regsel := 0, csmask := 0, uartIrq := false, nmiOut := false, lines := lines,
      voiceGain := gain, voiceVolt := volt, extClk := none, draws := s.draws + 1 } ∧
    (∀ ln, lineLevel ln lines = Config.lineAtReset s.draws s.trace ln) ∧
    (∀ i : Voice, gain[i] = .supplied (Config.voiceGainAtReset s.draws s.trace i)) ∧
    ∀ (i : Voice) (k : Kind), volt[i][k.index] = .supplied (Config.voiceVoltAtReset s.draws s.trace i k)

/-! ## The control write (40_counter_gate.md R71 to R76) -/

/-- The control write stores all eight bits and leaves every register it does not name; GATE1, IRQ and `C0OUT` are left as the timer's
events chained to the GATE0 emit and then those chained to the CLK0 emit leave them, each by its own rule (R59, R71; 20_memory.md R44,
R80, R85). Which moment each chain belongs to is the model's (log 3). -/
def Obligations.ControlWriteStoresAndKeepsTheRest : Prop :=
  ∀ (d : Byte) (s : State), ∃ t, exec (.ctrlWr d) s = .next t ∧
    t.ctrl = d ∧ t.dac = s.dac ∧ t.regsel = s.regsel ∧ t.csmask = s.csmask ∧ t.uartIrq = s.uartIrq ∧
    t.voiceVolt = s.voiceVolt ∧ t.extClk = s.extClk ∧ t.readData = s.readData ∧ t.inbox = s.inbox ∧
    t.lines.clkmon = s.lines.clkmon ∧ t.lines.dataSent = s.lines.dataSent ∧ t.lines.uartRxd = s.lines.uartRxd ∧
    t.lines.gate1 = lastLevel .gate1 (newOutput s t) s.lines.gate1 ∧
    t.lines.irq = lastLevel .irq (newOutput s t) s.lines.irq ∧
    (lineLevels .gate1 (newOutput s t) = [] → t.c0out = s.c0out) ∧
    t.c0out = recordedOut0 (clockChain Config.env d s) (recordedOut0 (gateChain Config.env d s) s.c0out) ∧
    t.draws = drawsAfterControl d s

/-- The output of a control write comes in the order of R71's five steps, with the output of the chained timer events right after the
GATE0 emit and right after the CLK0 emit, and no other (R71, R72, R74, R75, R76; R44 for the chains; the store's place is decision D13,
the voices' order D10). Which moment each chain belongs to is the model's (log 3), and so is that the read-backs of a recompute are not
in the trace (log 13). -/
def Obligations.ControlWriteEffectsInOrder : Prop :=
  ∀ (d : Byte) (s : State), ∃ t, exec (.ctrlWr d) s = .next t ∧
    (∀ ev ∈ timerOutput (gateChain Config.env d s) ++ timerOutput (clockChain Config.env d s), isTimerOutput ev = true) ∧
    (d.getLsbD 4 = true → d.getLsbD 2 = true → clockChain Config.env d s = .done) ∧
    t.trace = s.trace ++
      (if s.ctrl.getLsbD 0 = d.getLsbD 0 then []
        else Voice.all.map fun i => .setOutputGain i (if d.getLsbD 0 then 1 else 0)) ++
      [.line .gate0 (d.getLsbD 1)] ++ timerOutput (gateChain Config.env d s) ++
      (if d.getLsbD 4 = false then [.line .clk0 true]
        else if d.getLsbD 2 = false then [.line .clk0 false] else []) ++ timerOutput (clockChain Config.env d s) ++
      (if s.ctrl.getLsbD 5 = true ∧ d.getLsbD 5 = false then [.line .nmi false] else [])

/-- R72: gain calls to all six voices exactly when bit 0 changed (the trigger and the order of the calls are decisions D24 and D10). -/
def Obligations.ControlWriteAudioGain : Prop :=
  ∀ (d : Byte) (s : State), ∃ t, exec (.ctrlWr d) s = .next t ∧
    (s.ctrl.getLsbD 0 = d.getLsbD 0 → gainCalls (newOutput s t) = [] ∧ ∀ i, gainAt t i = gainAt s i) ∧
    (s.ctrl.getLsbD 0 ≠ d.getLsbD 0 →
      gainCalls (newOutput s t) = Voice.all.map (fun i => (i, if d.getLsbD 0 then 1 else 0)) ∧
      ∀ i, gainAt t i = .exact (if d.getLsbD 0 then 1 else 0))

/-- R73: a rising edge of bit 1 arms and computes the frequency, a falling edge cancels and disarms, no edge does nothing (decision
D11). The read-backs are those of the moment, after the gain calls of step 1 (log 13). The phase, 0 after a cancel and after a recompute,
is the model's count (log 14). -/
def Obligations.ControlWriteArmsAndDisarms : Prop :=
  ∀ (d : Byte) (s : State), ∃ t, exec (.ctrlWr d) s = .next t ∧
    (s.ctrl.getLsbD 1 = d.getLsbD 1 →
      t.calArmed = s.calArmed ∧ t.calTimer = s.calTimer ∧ t.calPhase = s.calPhase) ∧
    (s.ctrl.getLsbD 1 = true → d.getLsbD 1 = false →
      t.calArmed = false ∧ t.calTimer = .stopped ∧ t.calPhase = 0) ∧
    (s.ctrl.getLsbD 1 = false → d.getLsbD 1 = true → s.calArmed = true →
      t.calArmed = true ∧ t.calTimer = s.calTimer ∧ t.calPhase = s.calPhase) ∧
    (s.ctrl.getLsbD 1 = false → d.getLsbD 1 = true → s.calArmed = false →
      t.calArmed = true ∧ t.calPhase = 0 ∧
      t.calTimer = timerFor (calibrationMaximum (Config.voiceParam s.draws (s.trace ++
        if s.ctrl.getLsbD 0 = d.getLsbD 0 then []
        else Voice.all.map fun i => .setOutputGain i (if d.getLsbD 0 then 1 else 0)))))

/-- R74: every control write drives its bit 1 onto channel 0's gate input, once, changed or not. -/
def Obligations.ControlWriteDrivesGate0 : Prop :=
  ∀ (d : Byte) (s : State), ∃ t, exec (.ctrlWr d) s = .next t ∧
    lineLevels .gate0 (newOutput s t) = [d.getLsbD 1] ∧ t.lines.gate0 = d.getLsbD 1

/-- R75 with its table: clear wins over preset, each forces the flip-flop by one `set_flip_flop` call, and with both bits 1 there is
no call. -/
def Obligations.ControlWriteForcesTheFlipFlop : Prop :=
  ∀ (d : Byte) (s : State), ∃ t, exec (.ctrlWr d) s = .next t ∧
    (d.getLsbD 4 = false → t.ff = false ∧ lineLevels .clk0 (newOutput s t) = [true] ∧ t.lines.clk0 = true) ∧
    (d.getLsbD 4 = true → d.getLsbD 2 = false →
      t.ff = true ∧ lineLevels .clk0 (newOutput s t) = [false] ∧ t.lines.clk0 = false) ∧
    (d.getLsbD 4 = true → d.getLsbD 2 = true →
      t.ff = s.ff ∧ lineLevels .clk0 (newOutput s t) = [] ∧ t.lines.clk0 = s.lines.clk0)

/-- R76: a falling edge of bit 5 deasserts the NMI whatever `UART_IRQ` holds; any other control write leaves it. -/
def Obligations.ControlWriteClearsTheNmi : Prop :=
  ∀ (d : Byte) (s : State), ∃ t, exec (.ctrlWr d) s = .next t ∧
    (s.ctrl.getLsbD 5 = true → d.getLsbD 5 = false →
      t.nmiOut = false ∧ lineLevels .nmi (newOutput s t) = [false] ∧ t.lines.nmi = false) ∧
    (s.ctrl.getLsbD 5 = false ∨ d.getLsbD 5 = true →
      t.nmiOut = s.nmiOut ∧ lineLevels .nmi (newOutput s t) = [] ∧ t.lines.nmi = s.lines.nmi)

/-! ## The rest of the counter/gate chain -/

/-- R77: bit 0 is NOT flip-flop, bit 1 is counter-0 OUT (after reset the draw), the other bits are 0; no side effect, so a second read
returns the same byte. The word with any data bits is R55's and R66's (decision D2, log 20); the read right after reset gives the draw
of decision D6 (log 6) at the model's moment 0 (log 3). -/
def Obligations.StateReadReturnsTheCounterState : Prop :=
  (∀ x : Byte, decode (0x08#8 ++ x) = .ok .stateRd) ∧
  (∀ s : State, ∃ b : Byte, exec .stateRd s = .next { s with readData := b } ∧
    b.getLsbD 0 = !s.ff ∧ b.getLsbD 1 = s.c0out ∧ (∀ n, 2 ≤ n → b.getLsbD n = false) ∧
    exec .stateRd { s with readData := b } = .next { s with readData := b }) ∧
  ∃ b : Byte, exec .stateRd State.reset = .next { State.reset with readData := b } ∧
    b.getLsbD 1 = Config.resetC0out 0 []

/-- R79: a tick of the running timer copies control bit 3 into the flip-flop, whatever bits 4 and 2 hold, and drives CLK0 inverted;
beyond that only the phase advances and the events the timer chains to the emit run, each by its own rule (R44, R80, R85). The phase
count and the moment are the model's (logs 14 and 3). -/
def Obligations.CalTickSamplesControlBit3 : Prop :=
  ∀ (s : State) (f : RealMark), s.calTimer = .running f →
    exec .calTick s = .next {
      afterChain (Config.timerChain s.draws (s.trace ++ [.line .clk0 (!s.ctrl.getLsbD 3)])) { s with
        lines := { s.lines with clk0 := !s.ctrl.getLsbD 3 }
        trace := s.trace ++ [.line .clk0 (!s.ctrl.getLsbD 3)]
        draws := s.draws + 1 } with
      ff := s.ctrl.getLsbD 3
      calPhase := s.calPhase + 1 }

/-- R79 (decision D26): a tick while the timer is stopped is refused. -/
def Obligations.CalTickWhileStoppedIsRefused : Prop :=
  ∀ s : State, s.calTimer = .stopped → exec .calTick s = .refused .calTickWhileStopped

/-- R80, with R44 for the chain: OUT0 first drives GATE1 with the inverse level, then, after whatever timer events that chains have
run by their own rules, records the level. Of the rest only the moment changes, which is the model's (log 3). An OUT0 inside a chain does the same at its place,
whatever its own GATE1 emit chains (any collaborators `e`), and the chain goes on after it; that it nests so and uses no moment of its
own is the model's (logs 3, 4). -/
def Obligations.Out0GatesChannel1AndIsRecorded : Prop :=
  ∀ (l : Bool) (s : State),
    decode (0b100000100000000#15 ++ BitVec.ofBool l) = .ok (.out0 l) ∧
    exec (.out0 l) s = .next {
      afterChain (Config.timerChain s.draws (s.trace ++ [.line .gate1 (!l)])) { s with
        lines := { s.lines with gate1 := !l }
        trace := s.trace ++ [.line .gate1 (!l)]
        draws := s.draws + 1 } with
      c0out := l } ∧
    runTimerChain .done s = s ∧
    ∀ (e : Env) (rest : TimerChain),
      runTimerChain (.out0 l (e.timerChain s.draws (s.trace ++ [.line .gate1 (!l)])) rest) s =
        runTimerChain rest { out0Event e l s with draws := s.draws }

/-- R85: OUT2 drives IRQ with its level and changes nothing else (the polarity is decision D16); an OUT2 inside a chain does the same at
its place, and the chain goes on after it (R44). -/
def Obligations.Out2DrivesTheInterruptLine : Prop :=
  ∀ (l : Bool) (s : State), ∃ t,
    t = { s with lines := { s.lines with irq := l }, trace := s.trace ++ [.line .irq l] } ∧
    exec (.out2 l) s = .next t ∧
    ∀ rest : TimerChain, runTimerChain (.out2 l rest) s = runTimerChain rest t

/-- R83, with R44 for the chain: the read is forwarded with its offset and its answer returned; beyond that only the timer events
chained to the call run, each by its own rule (R80, R85). The moment of the answer and its advance are the model's (log 3).
That the word decodes with any data bits is R55's and R66's (decision D2, log 20). -/
def Obligations.TimerReadPassesThrough : Prop :=
  ∀ (off : BitVec 2) (s : State),
    (∀ x : Byte, decode (0b000000#6 ++ off ++ x) = .ok (.timerRd off)) ∧
    exec (.timerRd off) s = .next {
      afterChain (Config.timerChain s.draws (s.trace ++ [.timerRead off])) { s with
        trace := s.trace ++ [.timerRead off], draws := s.draws + 1 } with
      readData := Config.timerRead s.draws (s.trace ++ [.timerRead off]) off }

/-- R84, with R44 for the chain: the write is forwarded with its offset and data; beyond that only the timer events
chained to the call run, each by its own rule (R80, R85), which can change `C0OUT`, GATE1 and IRQ. The moment and its advance are
the model's (log 3). -/
def Obligations.TimerWritePassesThrough : Prop :=
  ∀ (off : BitVec 2) (d : Byte) (s : State),
    decode (0b000100#6 ++ off ++ d) = .ok (.timerWr off d) ∧
    exec (.timerWr off d) s = .next (
      afterChain (Config.timerChain s.draws (s.trace ++ [.timerWrite off d])) { s with
        trace := s.trace ++ [.timerWrite off d], draws := s.draws + 1 })

/-- R81 (decisions D12, D19), over the reals the read-backs are: the maximum is 0.0 Hz or a contributed frequency, and no voice
contributes more; a recompute restarts the timer there with a new phase, or leaves it stopped when the maximum is not above 0.0. That
all read-backs share one moment and history is the model's (log 13), and so are the advance of the moment (log 3) and the phase
count, 0 also when stopped (log 14). -/
def Obligations.RecomputeTakesTheHighestQualifyingFrequency : Prop :=
  (∀ vp : Voice → Kind → ReadBack,
    0 ≤ (calibrationMaximum vp).hertz ∧
    (∀ i f, Contributes (vp i) f → f.hertz ≤ (calibrationMaximum vp).hertz) ∧
    (0 < (calibrationMaximum vp).hertz → ∃ i, Contributes (vp i) (calibrationMaximum vp))) ∧
  ∀ (e : Env) (s : State) (m : RealMark), calibrationMaximum (e.voiceParam s.draws s.trace) = m →
    (0 < m.hertz →
      recompute e s = { s with calTimer := .running m, calPhase := 0, draws := s.draws + 1 }) ∧
    (m.hertz ≤ 0 →
      recompute e s = { s with calTimer := .stopped, calPhase := 0, draws := s.draws + 1 })

/-! ## DAC latch, register select, chip select (41_dac_chipselect.md) -/

/-- R60: a write of offset 0xA places `data[7:2]` in the high half and keeps the low half; `data[1:0]` is ignored. -/
def Obligations.DacHighHalfWrite : Prop :=
  ∀ (d d' : Byte) (s : State),
    (∃ t, exec (.dachWr d) s = .next t ∧
      t.dac = (s.dac &&& 0x03F) ||| ((d.setWidth 12 <<< 4) &&& 0xFC0) ∧
      t.dac.extractLsb' 6 6 = d.extractLsb' 2 6 ∧ t.dac.extractLsb' 0 6 = s.dac.extractLsb' 0 6) ∧
    (d.extractLsb' 2 6 = d'.extractLsb' 2 6 → exec (.dachWr d) s = exec (.dachWr d') s)

/-- R61: a write of offset 0xB places `data[7:2]` in the low half and keeps the high half; `data[1:0]` is ignored. -/
def Obligations.DacLowHalfWrite : Prop :=
  ∀ (d d' : Byte) (s : State),
    (∃ t, exec (.daclWr d) s = .next t ∧
      t.dac = (s.dac &&& 0xFC0) ||| (d.setWidth 12 >>> 2) ∧
      t.dac.extractLsb' 0 6 = d.extractLsb' 2 6 ∧ t.dac.extractLsb' 6 6 = s.dac.extractLsb' 6 6) ∧
    (d.extractLsb' 2 6 = d'.extractLsb' 2 6 → exec (.daclWr d) s = exec (.daclWr d') s)

/-- R106, R42: the two halves in either order give `(high6 << 6) | low6`. -/
def Obligations.DacHalvesInEitherOrder : Prop :=
  ∀ (h l : Byte) (s : State), ∃ t u,
    execAll [.dachWr h, .daclWr l] s = .next t ∧ execAll [.daclWr l, .dachWr h] s = .next u ∧
    t.dac = ((h.setWidth 12 >>> 2) <<< 6) ||| (l.setWidth 12 >>> 2) ∧ u.dac = t.dac

/-- R96, R102, R135: a DAC write forwards the new latch value to exactly the enabled voices, in ascending order, unless all six are
enabled: then it only updates the latch (decisions D9, D10; 90_conflicts.md C2). That the read-backs of an armed block's recomputes are not in
the trace is the model's (log 13). -/
def Obligations.DacWriteReplaysToTheEnabledVoices : Prop :=
  ∀ (d : Byte) (s : State) (i : Instr), i = .dachWr d ∨ i = .daclWr d →
    ∃ t, exec i s = .next t ∧
      (s.csmask ≠ 0x3F →
        t.trace = s.trace ++ ((Voice.all.filter fun v => s.csmask.getLsbD v.val).map fun v =>
          .setVoltage v (kindOf s.regsel) (voltage t.dac)) ∧
        ∀ v k, voltageAt t v k =
          if s.csmask.getLsbD v.val = true ∧ k = kindOf s.regsel then .exact (voltage t.dac) else voltageAt s v k) ∧
      (s.csmask = 0x3F → t = { s with dac := t.dac })

/-- What a DAC write leaves: every register but `DAC`, with the mask restored (R96); and when armed it recomputes twice, the last time
after the replayed voltages (R89; decision D9). The recomputes are counted by the model's moment (log 3), the read-backs of one
recompute share a moment and a history (log 13), and the phase 0 is the model's count (log 14). -/
def Obligations.DacWriteKeepsTheRest : Prop :=
  ∀ (d : Byte) (s : State) (i : Instr), i = .dachWr d ∨ i = .daclWr d →
    ∃ t, exec i s = .next t ∧
      t = { s with dac := t.dac, voiceVolt := t.voiceVolt, trace := t.trace, calTimer := t.calTimer,
                   calPhase := t.calPhase, draws := t.draws } ∧
      (s.calArmed = false → t.calTimer = s.calTimer ∧ t.calPhase = s.calPhase ∧ t.draws = s.draws) ∧
      (s.calArmed = true → s.csmask ≠ 0x3F →
        t.draws = s.draws + 2 ∧ t.calPhase = 0 ∧
        t.calTimer = timerFor (calibrationMaximum (Config.voiceParam (s.draws + 1) t.trace)))

/-- R97, R62: the register-select write stores `data & 0b111` and does nothing else; `data[7:3]` is ignored. -/
def Obligations.RegisterSelectIsAPlainStore : Prop :=
  ∀ (d : Byte) (s : State),
    decode (0x1C#8 ++ d) = .ok (.regselWr d) ∧
    exec (.regselWr d) s = .next { s with regsel := (d &&& 0b111).setWidth 3 }

/-- R63's table. -/
def Obligations.RegisterSelectNamesTheKind : Prop :=
  kindOf 0 = .vcoFrequency ∧ kindOf 1 = .finalGain ∧ kindOf 2 = .filterResonance ∧ kindOf 3 = .filterFrequency ∧
  kindOf 4 = .mixerBalance ∧ kindOf 5 = .modulationAmount ∧ kindOf 6 = .pulseWidth ∧ kindOf 7 = .waveSelect

/-- R98, R64: the six low data bits become the mask, and each bit that rises applies the latch's voltage to the selected parameter of
its voice, in ascending order; no other voice parameter changes (decisions D8, D10). That the read-backs of an armed
block's recompute are not in the trace is the model's (log 13). -/
def Obligations.ChipSelectAppliesTheRisingEdges : Prop :=
  ∀ (d : Byte) (s : State), ∃ t, exec (.cselWr d) s = .next t ∧
    t.csmask = d.extractLsb' 0 6 ∧
    t.trace = s.trace ++ ((Voice.all.filter fun v => !s.csmask.getLsbD v.val && d.getLsbD v.val).map fun v =>
      .setVoltage v (kindOf s.regsel) (voltage s.dac)) ∧
    ∀ v k, voltageAt t v k =
      if s.csmask.getLsbD v.val = false ∧ d.getLsbD v.val = true ∧ k = kindOf s.regsel then .exact (voltage s.dac)
      else voltageAt s v k

/-- What a chip-select write leaves: every register but the mask; and it recomputes once exactly when armed, after the voltages (R98,
R89; decision D11). The recompute is counted by the model's moment (log 3), its read-backs share a moment and a history (log 13), and
the phase 0 is the model's count (log 14). -/
def Obligations.ChipSelectKeepsTheRest : Prop :=
  ∀ (d : Byte) (s : State), ∃ t, exec (.cselWr d) s = .next t ∧
    t = { s with csmask := t.csmask, voiceVolt := t.voiceVolt, trace := t.trace, calTimer := t.calTimer,
                 calPhase := t.calPhase, draws := t.draws } ∧
    (s.calArmed = false → t.calTimer = s.calTimer ∧ t.calPhase = s.calPhase ∧ t.draws = s.draws) ∧
    (s.calArmed = true →
      t.draws = s.draws + 1 ∧ t.calPhase = 0 ∧
      t.calTimer = timerFor (calibrationMaximum (Config.voiceParam s.draws t.trace)))

/-- R99: writing the same mask twice applies nothing the second time. An armed block recomputes then too; that its read-backs are not in
the trace is the model's (log 13). -/
def Obligations.ChipSelectTwiceAppliesOnce : Prop :=
  ∀ (d : Byte) (s t u : State), exec (.cselWr d) s = .next t → exec (.cselWr d) t = .next u →
    u.trace = t.trace ∧ u.csmask = t.csmask ∧ ∀ v k, voltageAt u v k = voltageAt t v k

/-- R100: the voltage of a latch value is `dacValue * (8.0/4096.0) - 4.0`, that is `d / 512 - 4`, exactly. -/
def Obligations.VoltageConversionIsExact : Prop :=
  ∀ d : BitVec 12, voltage d = (d.toNat : Rat) * (8 / 4096) - 4 ∧ voltage d = (d.toNat : Rat) / 512 - 4

/-- R101: strictly increasing, one step is 1/512 V, from -4.0 to 3.998046875. -/
def Obligations.VoltageRisesBySteps : Prop :=
  (∀ d d' : BitVec 12, d < d' → voltage d < voltage d') ∧
  (∀ d : BitVec 12, d ≠ 4095 → voltage (d + 1) - voltage d = 1 / 512) ∧
  (∀ d : BitVec 12, -4 ≤ voltage d ∧ voltage d ≤ 3998046875 / 1000000000) ∧
  voltage 0 = -4 ∧ voltage 2048 = 0 ∧ voltage 4095 = 3998046875 / 1000000000

/-- R69: after `DACSET v` the latch holds `v`, from any state (decision D2 names the pseudo-operation). -/
def Obligations.DacsetLoadsTheLatch : Prop :=
  ∀ (v : BitVec 12) (s : State), ∃ t, execAll (dacset v) s = .next t ∧
    t.dac = v ∧ t.csmask = s.csmask ∧ t.regsel = s.regsel

/-- R69: after `VOICESET i, k, v` parameter `KIND[k]` of voice `i` has received `voltage(v)` and no other parameter of any voice has
changed (decision D2 names the pseudo-operation). -/
def Obligations.VoicesetReachesOneParameter : Prop :=
  ∀ (i : Voice) (k : BitVec 3) (v : BitVec 12) (s : State), ∃ t, execAll (voiceset i k v) s = .next t ∧
    t.csmask = 1#6 <<< i.val ∧ t.dac = v ∧ t.regsel = k ∧
    ∀ j k', voltageAt t j k' = if j = i ∧ k' = kindOf k then .exact (voltage v) else voltageAt s j k'

/-! ## Serial link (42_serial_link.md) -/

/-- R107, R108: at a rising edge with `CTRL[5] = 1` the NMI takes `UART_IRQ`'s level, then the inverted clock goes out; nothing else
changes but the remembered clock level (decisions D14, D15; log 17). -/
def Obligations.UartClockGatesTheNmi : Prop :=
  ∀ (l : Bool) (s : State), exec (.uartClk l) s = .next { s with
    nmiOut := if l = true ∧ s.ctrl.getLsbD 5 = true then s.uartIrq else s.nmiOut
    lines := { s.lines with
      nmi := if l = true ∧ s.ctrl.getLsbD 5 = true then s.uartIrq else s.lines.nmi
      clkmon := !l }
    extClk := some l
    trace := s.trace ++ (if l = true ∧ s.ctrl.getLsbD 5 = true then [.line .nmi s.uartIrq] else []) ++
      [.line .clkmon (!l)] }

/-- R109: every UART clock event emits the inverted level on the clock monitor, whatever `CTRL[5]` holds. -/
def Obligations.ClockMonitorAlwaysEmits : Prop :=
  ∀ (l : Bool) (s : State), ∃ t, exec (.uartClk l) s = .next t ∧
    lineLevels .clkmon (newOutput s t) = [!l] ∧ t.lines.clkmon = !l

/-- R111, with R44 for the chain: the serial input is forwarded at once to the UART's receive data; beyond that only the
events the UART chains run: `UART_IRQ` takes the last chained level, if any, and each chained UART_TXD goes out (R112, R113). The moment
and its advance are the model's (log 3). Each event of a chain does what the stimulus of its name does, and the chain goes on after it. -/
def Obligations.SerialInputIsForwarded : Prop :=
  ∀ (l : Bool) (s : State),
    decode (0b100001110000000#15 ++ BitVec.ofBool l) = .ok (.serialIn l) ∧
    exec (.serialIn l) s = .next (
      afterUartChain (Config.uartChain s.draws (s.trace ++ [.line .uartRxd l])) { s with
        lines := { s.lines with uartRxd := l }, trace := s.trace ++ [.line .uartRxd l], draws := s.draws + 1 }) ∧
    runUartChain [] s = s ∧
    ∀ (v : Bool) (rest : List UartEvent),
      (∃ t, exec (.uartIrq v) s = .next t ∧ runUartChain (.irq v :: rest) s = runUartChain rest t) ∧
      ∃ t, exec (.uartTxd v) s = .next t ∧ runUartChain (.txd v :: rest) s = runUartChain rest t

/-- R112: the UART's transmit data goes out on DATA_SENT; nothing is stored. -/
def Obligations.TransmitDataIsForwarded : Prop :=
  ∀ (l : Bool) (s : State),
    decode (0b100001100000000#15 ++ BitVec.ofBool l) = .ok (.uartTxd l) ∧
    exec (.uartTxd l) s = .next { s with
      lines := { s.lines with dataSent := l }, trace := s.trace ++ [.line .dataSent l] }

/-- R113: the UART's interrupt level is stored and nothing is emitted; the NMI does not move. A pulse that rises and falls between two
rising clock edges, whatever else happens before its fall and whatever but another UART interrupt or serial input after it, never
reaches the NMI: nothing asserts it, and the next gated rising edge copies 0. -/
def Obligations.UartInterruptIsStored : Prop :=
  ∀ (l : Bool) (s : State),
    decode (0b100001010000000#15 ++ BitVec.ofBool l) = .ok (.uartIrq l) ∧
    exec (.uartIrq l) s = .next { s with uartIrq := l } ∧
    ∀ (between after : List Instr) (t : State), .uartClk true ∉ between ++ after →
      (∀ v, .uartIrq v ∉ after ∧ .serialIn v ∉ after) →
      execAll (.uartIrq true :: (between ++ .uartIrq false :: after)) s = .next t →
      t.uartIrq = false ∧ true ∉ lineLevels .nmi (newOutput s t) ∧ (t.nmiOut = true → s.nmiOut = true) ∧
      ∃ u, exec (.uartClk true) t = .next u ∧ u.nmiOut = if t.ctrl.getLsbD 5 then false else t.nmiOut

/-! ## Unmapped accesses (20_memory.md R39) -/

/-- An unmapped read returns a draw and changes nothing else of the block (decision D4; the moment is the model's, log 3). -/
def Obligations.UnmappedReadsReturnADraw : Prop :=
  ∀ (off : BitVec 4) (s : State),
    exec (.openRd4 off) s = .next { s with readData := Config.openBus s.draws s.trace off, draws := s.draws + 1 } ∧
    exec .openRd9 s = .next { s with readData := Config.openBus s.draws s.trace 0x9, draws := s.draws + 1 } ∧
    exec (.openRdA off) s = .next { s with readData := Config.openBus s.draws s.trace off, draws := s.draws + 1 } ∧
    exec (.openRdC off) s = .next { s with readData := Config.openBus s.draws s.trace off, draws := s.draws + 1 }

/-- An unmapped write is a no-op (decision D3 fixes the gaps). -/
def Obligations.UnmappedWritesAreNoOps : Prop :=
  ∀ (off : BitVec 4) (d : Byte) (s : State),
    exec (.ignoreWr4 off d) s = .next s ∧ exec (.ignoreWr9 d) s = .next s ∧
    exec (.ignoreWrD d) s = .next s ∧ exec (.ignoreWrF d) s = .next s

/-- R37 (decision D3; the form of the mirror is log 26), for every window: an access in its address space at `base + offset` reaches
that offset, if that address has no mirror bit set; the mirror bits of an accessed address are ignored; an address without them outside
`base` to `base + 15`, or in another address space, does not reach the window. That an offset whose own address has a mirror bit set is
reached at no address is the model's choice (log 26). The window of this hardware is in I/O space without mirror bits (R6).

An access that reaches an offset becomes the stimulus word `0 00 W offset data` of that offset (R55, decision D2), which decodes, and
which the next step runs if none waits before it; an access that does not reach the window changes nothing (the inbox is log 1's). -/
def Obligations.WindowDecodesItsSixteenOffsets : Prop :=
  (∀ (win : Window) (space : AddressSpace) (addr addr' : Nat),
    (∀ off : BitVec 4,
      ((win.base + off.toNat) &&& win.mirror = 0 → windowOffset win win.space (win.base + off.toNat) = some off) ∧
      ((win.base + off.toNat) &&& win.mirror ≠ 0 → windowOffset win space addr ≠ some off)) ∧
    (addr &&& win.mirror = 0 → addr < win.base ∨ win.base + 15 < addr → windowOffset win space addr = none) ∧
    (space ≠ win.space → windowOffset win space addr = none) ∧
    ((∀ i, win.mirror.testBit i = false → addr.testBit i = addr'.testBit i) →
      windowOffset win space addr = windowOffset win space addr')) ∧
  Config.window.space = .io ∧ Config.window.mirror = 0 ∧
  ∀ (win : Window) (space : AddressSpace) (addr : Nat) (write : Bool) (data : Byte) (s : State),
    (∀ off, windowOffset win space addr = some off →
      busStimulus win space addr write data = some (0b000#3 ++ BitVec.ofBool write ++ off ++ data) ∧
      cpuAccess win space addr write data s =
        { s with inbox := s.inbox ++ [0b000#3 ++ BitVec.ofBool write ++ off ++ data] } ∧
      ∃ i, decode (0b000#3 ++ BitVec.ofBool write ++ off ++ data) = .ok i ∧
        (s.inbox = [] → step (cpuAccess win space addr write data s) = exec i s)) ∧
    (windowOffset win space addr = none →
      busStimulus win space addr write data = none ∧ cpuAccess win space addr write data s = s)

/-! ## Rules over every stimulus -/

/-- R115's state machine of the NMI, over all stimuli (R114). -/
def Obligations.NmiStateMachine : Prop :=
  ∀ (i : Instr) (s t : State), exec i s = .next t →
    t.nmiOut = match i with
      | .uartClk l => if l = true ∧ s.ctrl.getLsbD 5 = true then s.uartIrq else s.nmiOut
      | .ctrlWr d => if s.ctrl.getLsbD 5 = true ∧ d.getLsbD 5 = false then false else s.nmiOut
      | .reset => false
      | _ => s.nmiOut

/-- R92: the flip-flop is written only by control writes with bit 4 or bit 2 at 0 and by ticks; a reset makes it 0, which is decision
D5 (log 7). -/
def Obligations.FlipFlopWriters : Prop :=
  ∀ (i : Instr) (s t : State), exec i s = .next t →
    t.ff = match i with
      | .ctrlWr d => if d.getLsbD 4 = false then false else if d.getLsbD 2 = false then true else s.ff
      | .calTick => s.ctrl.getLsbD 3
      | .reset => false
      | _ => s.ff

/-- R15, R18, R20 to R22, R26, R28: each register is written by its own stimulus and the reset alone; `UART_IRQ` also by what the UART
chains to a serial input. The reset zeros of `REGSEL`, `CSMASK` and `DAC` are decision D5 (log 7). That no stimulus touches the inbox is
the model's (logs 1, 29). -/
def Obligations.RegisterWriters : Prop :=
  ∀ (i : Instr) (s t : State), exec i s = .next t →
    (t.ctrl = match i with | .ctrlWr d => d | .reset => 0 | _ => s.ctrl) ∧
    (t.regsel = match i with | .regselWr d => d.extractLsb' 0 3 | .reset => 0 | _ => s.regsel) ∧
    (t.csmask = match i with | .cselWr d => d.extractLsb' 0 6 | .reset => 0 | _ => s.csmask) ∧
    (t.dac = match i with
      | .dachWr d => d.extractLsb' 2 6 ++ s.dac.extractLsb' 0 6
      | .daclWr d => s.dac.extractLsb' 6 6 ++ d.extractLsb' 2 6
      | .reset => 0
      | _ => s.dac) ∧
    (t.uartIrq ≠ s.uartIrq → (∃ l, i = .uartIrq l) ∨ (∃ l, i = .serialIn l) ∨ i = .reset) ∧
    (t.calArmed ≠ s.calArmed → (∃ d, i = .ctrlWr d) ∨ i = .reset) ∧
    t.inbox = s.inbox

/-- R36 (e), R25: outside a reset, a step in which no OUT0 event drives GATE1 leaves `C0OUT`. -/
def Obligations.CounterOutChangesOnlyByOut0 : Prop :=
  ∀ (i : Instr) (s t : State), i ≠ .reset → exec i s = .next t →
    lineLevels .gate1 (newOutput s t) = [] → t.c0out = s.c0out

/-- R105: only the chip-select engine sets voltages, and only the control write sets output gains. -/
def Obligations.VoiceWriters : Prop :=
  ∀ (i : Instr) (s t : State), exec i s = .next t →
    (voltageCalls (newOutput s t) ≠ [] → ∃ d, i = .dachWr d ∨ i = .daclWr d ∨ i = .cselWr d) ∧
    (gainCalls (newOutput s t) ≠ [] → ∃ d, i = .ctrlWr d) ∧
    (i ≠ .reset → voltageCalls (newOutput s t) = [] → t.voiceVolt = s.voiceVolt) ∧
    (i ≠ .reset → gainCalls (newOutput s t) = [] → t.voiceGain = s.voiceGain)

/-- R87: from the first emit on CLK0 after a reset, the line is always NOT flip-flop. -/
def Obligations.ClockLineFollowsTheFlipFlop : Prop :=
  ∀ (i : Instr) (s t : State), exec i s = .next t →
    (lineLevels .clk0 (newOutput s t) ≠ [] → t.lines.clk0 = !t.ff) ∧
    (i ≠ .reset → s.lines.clk0 = !s.ff → t.lines.clk0 = !t.ff)

/-- R9, R30: outside a reset each one-bit line's level is the last one emitted on it, and `NMI_OUT` is the last level emitted on NMI
(R29). That the trace only grows, through a reset too, is the model's (logs 23, 29). -/
def Obligations.LineLevelsAreTheLastEmits : Prop :=
  ∀ (i : Instr) (s t : State), exec i s = .next t →
    t.trace = s.trace ++ newOutput s t ∧
    (i ≠ .reset →
      (∀ ln, lineLevel ln t.lines = lastLevel ln (newOutput s t) (lineLevel ln s.lines)) ∧
      t.nmiOut = lastLevel .nmi (newOutput s t) s.nmiOut)

/-! ## Save and restore (10_state.md R34), and fairness (70_reset_and_hazards.md R146) -/

/-- R34 (decision D28): a restored save gives back every persisted element, and the whole state where the collaborators' side is the
same; a save that breaks R36 (b) or (c) (93 U16; log 25) or R27's `f > 0` is refused; and a state restored from any save meets the
invariants (the phase 0 of a stopped timer is log 14's). That a restore keeps the lines, NMI among them, and emits nothing is the
model's (log 30). -/
def Obligations.SaveRestoreRoundTrip : Prop :=
  (∀ s u : State, StateInv s → ∃ t, State.restore s.save u = .next t ∧ t.save = s.save ∧
    (u.lines = s.lines → u.voiceGain = s.voiceGain → u.voiceVolt = s.voiceVolt → u.extClk = s.extClk →
      u.readData = s.readData → u.trace = s.trace → u.draws = s.draws → u.inbox = s.inbox → t = s)) ∧
  (∀ (v : Saved) (u : State),
    v.calArmed ≠ v.ctrl.getLsbD 1 ∨ (v.calArmed = false ∧ v.calTimer ≠ .stopped) ∨
      (∃ f, v.calTimer = .running f ∧ f.hertz ≤ 0) →
    State.restore v u = .refused .brokenSave) ∧
  ∀ (v : Saved) (u t : State), State.restore v u = .next t → StateInv t

/-- R119 under R146 (decision D26): in a fair run in which the NMI stays enabled and `UART_IRQ` stays 1 from some point on, the NMI is
asserted later on. -/
def Obligations.NmiEventuallyFollowsTheUart : Prop :=
  ∀ (st : Nat → State) (stim : Nat → Instr) (n : Nat), IsRun st stim → Fair st stim →
    (∀ m, n ≤ m → (st m).uartIrq = true ∧ (st m).ctrl.getLsbD 5 = true) →
    ∃ m, n ≤ m ∧ (st m).nmiOut = true

/-- R29, R30: every stimulus but a reset that changes `NMI_OUT` also emits it, so from the first emit on NMI after a reset no stimulus
parts the line from `NMI_OUT`; until then the line is the draw of log 22. A restore is no stimulus (log 30). -/
def Obligations.NmiLineFollowsNmiOut : Prop :=
  ∀ (i : Instr) (s t : State), exec i s = .next t →
    (lineLevels .nmi (newOutput s t) ≠ [] → t.lines.nmi = t.nmiOut) ∧
    (i ≠ .reset → s.lines.nmi = s.nmiOut → t.lines.nmi = t.nmiOut) ∧
    (i ≠ .reset → t.nmiOut ≠ s.nmiOut → lineLevels .nmi (newOutput s t) ≠ [])
end

