-- ==== Sys2Proof/Laws/State.lean ====
section
/-! SUPPORT. What each basic update does to each field of the state, one lemma per field and update, so that no later proof unfolds a
record update. -/

namespace Sys2Proof.Machine

/-! ## emitLine -/

@[simp] theorem emitLine_ctrl (ln : Line) (v : Bool) (s : State) : (emitLine ln v s).ctrl = s.ctrl := rfl
@[simp] theorem emitLine_ff (ln : Line) (v : Bool) (s : State) : (emitLine ln v s).ff = s.ff := rfl
@[simp] theorem emitLine_c0out (ln : Line) (v : Bool) (s : State) : (emitLine ln v s).c0out = s.c0out := rfl
@[simp] theorem emitLine_calArmed (ln : Line) (v : Bool) (s : State) : (emitLine ln v s).calArmed = s.calArmed := rfl
@[simp] theorem emitLine_calTimer (ln : Line) (v : Bool) (s : State) : (emitLine ln v s).calTimer = s.calTimer := rfl
@[simp] theorem emitLine_calPhase (ln : Line) (v : Bool) (s : State) : (emitLine ln v s).calPhase = s.calPhase := rfl
@[simp] theorem emitLine_dac (ln : Line) (v : Bool) (s : State) : (emitLine ln v s).dac = s.dac := rfl
@[simp] theorem emitLine_regsel (ln : Line) (v : Bool) (s : State) : (emitLine ln v s).regsel = s.regsel := rfl
@[simp] theorem emitLine_csmask (ln : Line) (v : Bool) (s : State) : (emitLine ln v s).csmask = s.csmask := rfl
@[simp] theorem emitLine_uartIrq (ln : Line) (v : Bool) (s : State) : (emitLine ln v s).uartIrq = s.uartIrq := rfl
@[simp] theorem emitLine_nmiOut (ln : Line) (v : Bool) (s : State) : (emitLine ln v s).nmiOut = s.nmiOut := rfl
@[simp] theorem emitLine_lines (ln : Line) (v : Bool) (s : State) : (emitLine ln v s).lines = setLine ln v s.lines := rfl
@[simp] theorem emitLine_voiceGain (ln : Line) (v : Bool) (s : State) : (emitLine ln v s).voiceGain = s.voiceGain := rfl
@[simp] theorem emitLine_voiceVolt (ln : Line) (v : Bool) (s : State) : (emitLine ln v s).voiceVolt = s.voiceVolt := rfl
@[simp] theorem emitLine_extClk (ln : Line) (v : Bool) (s : State) : (emitLine ln v s).extClk = s.extClk := rfl
@[simp] theorem emitLine_readData (ln : Line) (v : Bool) (s : State) : (emitLine ln v s).readData = s.readData := rfl
@[simp] theorem emitLine_trace (ln : Line) (v : Bool) (s : State) : (emitLine ln v s).trace = s.trace ++ [.line ln v] := rfl
@[simp] theorem emitLine_draws (ln : Line) (v : Bool) (s : State) : (emitLine ln v s).draws = s.draws := rfl
@[simp] theorem emitLine_inbox (ln : Line) (v : Bool) (s : State) : (emitLine ln v s).inbox = s.inbox := rfl

/-! ## driveNmi -/

@[simp] theorem driveNmi_ctrl (v : Bool) (s : State) : (driveNmi v s).ctrl = s.ctrl := rfl
@[simp] theorem driveNmi_ff (v : Bool) (s : State) : (driveNmi v s).ff = s.ff := rfl
@[simp] theorem driveNmi_c0out (v : Bool) (s : State) : (driveNmi v s).c0out = s.c0out := rfl
@[simp] theorem driveNmi_calArmed (v : Bool) (s : State) : (driveNmi v s).calArmed = s.calArmed := rfl
@[simp] theorem driveNmi_calTimer (v : Bool) (s : State) : (driveNmi v s).calTimer = s.calTimer := rfl
@[simp] theorem driveNmi_calPhase (v : Bool) (s : State) : (driveNmi v s).calPhase = s.calPhase := rfl
@[simp] theorem driveNmi_dac (v : Bool) (s : State) : (driveNmi v s).dac = s.dac := rfl
@[simp] theorem driveNmi_regsel (v : Bool) (s : State) : (driveNmi v s).regsel = s.regsel := rfl
@[simp] theorem driveNmi_csmask (v : Bool) (s : State) : (driveNmi v s).csmask = s.csmask := rfl
@[simp] theorem driveNmi_uartIrq (v : Bool) (s : State) : (driveNmi v s).uartIrq = s.uartIrq := rfl
@[simp] theorem driveNmi_nmiOut (v : Bool) (s : State) : (driveNmi v s).nmiOut = v := rfl
@[simp] theorem driveNmi_lines (v : Bool) (s : State) : (driveNmi v s).lines = setLine .nmi v s.lines := rfl
@[simp] theorem driveNmi_voiceGain (v : Bool) (s : State) : (driveNmi v s).voiceGain = s.voiceGain := rfl
@[simp] theorem driveNmi_voiceVolt (v : Bool) (s : State) : (driveNmi v s).voiceVolt = s.voiceVolt := rfl
@[simp] theorem driveNmi_extClk (v : Bool) (s : State) : (driveNmi v s).extClk = s.extClk := rfl
@[simp] theorem driveNmi_readData (v : Bool) (s : State) : (driveNmi v s).readData = s.readData := rfl
@[simp] theorem driveNmi_trace (v : Bool) (s : State) : (driveNmi v s).trace = s.trace ++ [.line .nmi v] := rfl
@[simp] theorem driveNmi_draws (v : Bool) (s : State) : (driveNmi v s).draws = s.draws := rfl
@[simp] theorem driveNmi_inbox (v : Bool) (s : State) : (driveNmi v s).inbox = s.inbox := rfl

/-! ## setOutputGain -/

@[simp] theorem setOutputGain_ctrl (g : Rat) (i : Voice) (s : State) : (setOutputGain g i s).ctrl = s.ctrl := rfl
@[simp] theorem setOutputGain_ff (g : Rat) (i : Voice) (s : State) : (setOutputGain g i s).ff = s.ff := rfl
@[simp] theorem setOutputGain_c0out (g : Rat) (i : Voice) (s : State) : (setOutputGain g i s).c0out = s.c0out := rfl
@[simp] theorem setOutputGain_calArmed (g : Rat) (i : Voice) (s : State) : (setOutputGain g i s).calArmed = s.calArmed := rfl
@[simp] theorem setOutputGain_calTimer (g : Rat) (i : Voice) (s : State) : (setOutputGain g i s).calTimer = s.calTimer := rfl
@[simp] theorem setOutputGain_calPhase (g : Rat) (i : Voice) (s : State) : (setOutputGain g i s).calPhase = s.calPhase := rfl
@[simp] theorem setOutputGain_dac (g : Rat) (i : Voice) (s : State) : (setOutputGain g i s).dac = s.dac := rfl
@[simp] theorem setOutputGain_regsel (g : Rat) (i : Voice) (s : State) : (setOutputGain g i s).regsel = s.regsel := rfl
@[simp] theorem setOutputGain_csmask (g : Rat) (i : Voice) (s : State) : (setOutputGain g i s).csmask = s.csmask := rfl
@[simp] theorem setOutputGain_uartIrq (g : Rat) (i : Voice) (s : State) : (setOutputGain g i s).uartIrq = s.uartIrq := rfl
@[simp] theorem setOutputGain_nmiOut (g : Rat) (i : Voice) (s : State) : (setOutputGain g i s).nmiOut = s.nmiOut := rfl
@[simp] theorem setOutputGain_lines (g : Rat) (i : Voice) (s : State) : (setOutputGain g i s).lines = s.lines := rfl
@[simp] theorem setOutputGain_voiceGain (g : Rat) (i : Voice) (s : State) : (setOutputGain g i s).voiceGain = s.voiceGain.set i (.exact g) := rfl
@[simp] theorem setOutputGain_voiceVolt (g : Rat) (i : Voice) (s : State) : (setOutputGain g i s).voiceVolt = s.voiceVolt := rfl
@[simp] theorem setOutputGain_extClk (g : Rat) (i : Voice) (s : State) : (setOutputGain g i s).extClk = s.extClk := rfl
@[simp] theorem setOutputGain_readData (g : Rat) (i : Voice) (s : State) : (setOutputGain g i s).readData = s.readData := rfl
@[simp] theorem setOutputGain_trace (g : Rat) (i : Voice) (s : State) : (setOutputGain g i s).trace = s.trace ++ [.setOutputGain i g] := rfl
@[simp] theorem setOutputGain_draws (g : Rat) (i : Voice) (s : State) : (setOutputGain g i s).draws = s.draws := rfl
@[simp] theorem setOutputGain_inbox (g : Rat) (i : Voice) (s : State) : (setOutputGain g i s).inbox = s.inbox := rfl

/-! ## setVoltage -/

@[simp] theorem setVoltage_ctrl (k : Kind) (v : Rat) (i : Voice) (s : State) : (setVoltage k v i s).ctrl = s.ctrl := rfl
@[simp] theorem setVoltage_ff (k : Kind) (v : Rat) (i : Voice) (s : State) : (setVoltage k v i s).ff = s.ff := rfl
@[simp] theorem setVoltage_c0out (k : Kind) (v : Rat) (i : Voice) (s : State) : (setVoltage k v i s).c0out = s.c0out := rfl
@[simp] theorem setVoltage_calArmed (k : Kind) (v : Rat) (i : Voice) (s : State) : (setVoltage k v i s).calArmed = s.calArmed := rfl
@[simp] theorem setVoltage_calTimer (k : Kind) (v : Rat) (i : Voice) (s : State) : (setVoltage k v i s).calTimer = s.calTimer := rfl
@[simp] theorem setVoltage_calPhase (k : Kind) (v : Rat) (i : Voice) (s : State) : (setVoltage k v i s).calPhase = s.calPhase := rfl
@[simp] theorem setVoltage_dac (k : Kind) (v : Rat) (i : Voice) (s : State) : (setVoltage k v i s).dac = s.dac := rfl
@[simp] theorem setVoltage_regsel (k : Kind) (v : Rat) (i : Voice) (s : State) : (setVoltage k v i s).regsel = s.regsel := rfl
@[simp] theorem setVoltage_csmask (k : Kind) (v : Rat) (i : Voice) (s : State) : (setVoltage k v i s).csmask = s.csmask := rfl
@[simp] theorem setVoltage_uartIrq (k : Kind) (v : Rat) (i : Voice) (s : State) : (setVoltage k v i s).uartIrq = s.uartIrq := rfl
@[simp] theorem setVoltage_nmiOut (k : Kind) (v : Rat) (i : Voice) (s : State) : (setVoltage k v i s).nmiOut = s.nmiOut := rfl
@[simp] theorem setVoltage_lines (k : Kind) (v : Rat) (i : Voice) (s : State) : (setVoltage k v i s).lines = s.lines := rfl
@[simp] theorem setVoltage_voiceGain (k : Kind) (v : Rat) (i : Voice) (s : State) : (setVoltage k v i s).voiceGain = s.voiceGain := rfl
@[simp] theorem setVoltage_voiceVolt (k : Kind) (v : Rat) (i : Voice) (s : State) : (setVoltage k v i s).voiceVolt = s.voiceVolt.set i (s.voiceVolt[i].set k.index (.exact v)) := rfl
@[simp] theorem setVoltage_extClk (k : Kind) (v : Rat) (i : Voice) (s : State) : (setVoltage k v i s).extClk = s.extClk := rfl
@[simp] theorem setVoltage_readData (k : Kind) (v : Rat) (i : Voice) (s : State) : (setVoltage k v i s).readData = s.readData := rfl
@[simp] theorem setVoltage_trace (k : Kind) (v : Rat) (i : Voice) (s : State) : (setVoltage k v i s).trace = s.trace ++ [.setVoltage i k v] := rfl
@[simp] theorem setVoltage_draws (k : Kind) (v : Rat) (i : Voice) (s : State) : (setVoltage k v i s).draws = s.draws := rfl
@[simp] theorem setVoltage_inbox (k : Kind) (v : Rat) (i : Voice) (s : State) : (setVoltage k v i s).inbox = s.inbox := rfl

/-! ## logCall -/

@[simp] theorem logCall_ctrl (ev : OutEvent) (s : State) : (logCall ev s).ctrl = s.ctrl := rfl
@[simp] theorem logCall_ff (ev : OutEvent) (s : State) : (logCall ev s).ff = s.ff := rfl
@[simp] theorem logCall_c0out (ev : OutEvent) (s : State) : (logCall ev s).c0out = s.c0out := rfl
@[simp] theorem logCall_calArmed (ev : OutEvent) (s : State) : (logCall ev s).calArmed = s.calArmed := rfl
@[simp] theorem logCall_calTimer (ev : OutEvent) (s : State) : (logCall ev s).calTimer = s.calTimer := rfl
@[simp] theorem logCall_calPhase (ev : OutEvent) (s : State) : (logCall ev s).calPhase = s.calPhase := rfl
@[simp] theorem logCall_dac (ev : OutEvent) (s : State) : (logCall ev s).dac = s.dac := rfl
@[simp] theorem logCall_regsel (ev : OutEvent) (s : State) : (logCall ev s).regsel = s.regsel := rfl
@[simp] theorem logCall_csmask (ev : OutEvent) (s : State) : (logCall ev s).csmask = s.csmask := rfl
@[simp] theorem logCall_uartIrq (ev : OutEvent) (s : State) : (logCall ev s).uartIrq = s.uartIrq := rfl
@[simp] theorem logCall_nmiOut (ev : OutEvent) (s : State) : (logCall ev s).nmiOut = s.nmiOut := rfl
@[simp] theorem logCall_lines (ev : OutEvent) (s : State) : (logCall ev s).lines = s.lines := rfl
@[simp] theorem logCall_voiceGain (ev : OutEvent) (s : State) : (logCall ev s).voiceGain = s.voiceGain := rfl
@[simp] theorem logCall_voiceVolt (ev : OutEvent) (s : State) : (logCall ev s).voiceVolt = s.voiceVolt := rfl
@[simp] theorem logCall_extClk (ev : OutEvent) (s : State) : (logCall ev s).extClk = s.extClk := rfl
@[simp] theorem logCall_readData (ev : OutEvent) (s : State) : (logCall ev s).readData = s.readData := rfl
@[simp] theorem logCall_trace (ev : OutEvent) (s : State) : (logCall ev s).trace = s.trace ++ [ev] := rfl
@[simp] theorem logCall_draws (ev : OutEvent) (s : State) : (logCall ev s).draws = s.draws := rfl
@[simp] theorem logCall_inbox (ev : OutEvent) (s : State) : (logCall ev s).inbox = s.inbox := rfl

/-! ## nextDraw -/

@[simp] theorem nextDraw_ctrl (s : State) : (nextDraw s).ctrl = s.ctrl := rfl
@[simp] theorem nextDraw_ff (s : State) : (nextDraw s).ff = s.ff := rfl
@[simp] theorem nextDraw_c0out (s : State) : (nextDraw s).c0out = s.c0out := rfl
@[simp] theorem nextDraw_calArmed (s : State) : (nextDraw s).calArmed = s.calArmed := rfl
@[simp] theorem nextDraw_calTimer (s : State) : (nextDraw s).calTimer = s.calTimer := rfl
@[simp] theorem nextDraw_calPhase (s : State) : (nextDraw s).calPhase = s.calPhase := rfl
@[simp] theorem nextDraw_dac (s : State) : (nextDraw s).dac = s.dac := rfl
@[simp] theorem nextDraw_regsel (s : State) : (nextDraw s).regsel = s.regsel := rfl
@[simp] theorem nextDraw_csmask (s : State) : (nextDraw s).csmask = s.csmask := rfl
@[simp] theorem nextDraw_uartIrq (s : State) : (nextDraw s).uartIrq = s.uartIrq := rfl
@[simp] theorem nextDraw_nmiOut (s : State) : (nextDraw s).nmiOut = s.nmiOut := rfl
@[simp] theorem nextDraw_lines (s : State) : (nextDraw s).lines = s.lines := rfl
@[simp] theorem nextDraw_voiceGain (s : State) : (nextDraw s).voiceGain = s.voiceGain := rfl
@[simp] theorem nextDraw_voiceVolt (s : State) : (nextDraw s).voiceVolt = s.voiceVolt := rfl
@[simp] theorem nextDraw_extClk (s : State) : (nextDraw s).extClk = s.extClk := rfl
@[simp] theorem nextDraw_readData (s : State) : (nextDraw s).readData = s.readData := rfl
@[simp] theorem nextDraw_trace (s : State) : (nextDraw s).trace = s.trace := rfl
@[simp] theorem nextDraw_draws (s : State) : (nextDraw s).draws = s.draws + 1 := rfl
@[simp] theorem nextDraw_inbox (s : State) : (nextDraw s).inbox = s.inbox := rfl

/-! ## uartIrqEvent -/

@[simp] theorem uartIrqEvent_ctrl (v : Bool) (s : State) : (uartIrqEvent v s).ctrl = s.ctrl := rfl
@[simp] theorem uartIrqEvent_ff (v : Bool) (s : State) : (uartIrqEvent v s).ff = s.ff := rfl
@[simp] theorem uartIrqEvent_c0out (v : Bool) (s : State) : (uartIrqEvent v s).c0out = s.c0out := rfl
@[simp] theorem uartIrqEvent_calArmed (v : Bool) (s : State) : (uartIrqEvent v s).calArmed = s.calArmed := rfl
@[simp] theorem uartIrqEvent_calTimer (v : Bool) (s : State) : (uartIrqEvent v s).calTimer = s.calTimer := rfl
@[simp] theorem uartIrqEvent_calPhase (v : Bool) (s : State) : (uartIrqEvent v s).calPhase = s.calPhase := rfl
@[simp] theorem uartIrqEvent_dac (v : Bool) (s : State) : (uartIrqEvent v s).dac = s.dac := rfl
@[simp] theorem uartIrqEvent_regsel (v : Bool) (s : State) : (uartIrqEvent v s).regsel = s.regsel := rfl
@[simp] theorem uartIrqEvent_csmask (v : Bool) (s : State) : (uartIrqEvent v s).csmask = s.csmask := rfl
@[simp] theorem uartIrqEvent_uartIrq (v : Bool) (s : State) : (uartIrqEvent v s).uartIrq = v := rfl
@[simp] theorem uartIrqEvent_nmiOut (v : Bool) (s : State) : (uartIrqEvent v s).nmiOut = s.nmiOut := rfl
@[simp] theorem uartIrqEvent_lines (v : Bool) (s : State) : (uartIrqEvent v s).lines = s.lines := rfl
@[simp] theorem uartIrqEvent_voiceGain (v : Bool) (s : State) : (uartIrqEvent v s).voiceGain = s.voiceGain := rfl
@[simp] theorem uartIrqEvent_voiceVolt (v : Bool) (s : State) : (uartIrqEvent v s).voiceVolt = s.voiceVolt := rfl
@[simp] theorem uartIrqEvent_extClk (v : Bool) (s : State) : (uartIrqEvent v s).extClk = s.extClk := rfl
@[simp] theorem uartIrqEvent_readData (v : Bool) (s : State) : (uartIrqEvent v s).readData = s.readData := rfl
@[simp] theorem uartIrqEvent_trace (v : Bool) (s : State) : (uartIrqEvent v s).trace = s.trace := rfl
@[simp] theorem uartIrqEvent_draws (v : Bool) (s : State) : (uartIrqEvent v s).draws = s.draws := rfl
@[simp] theorem uartIrqEvent_inbox (v : Bool) (s : State) : (uartIrqEvent v s).inbox = s.inbox := rfl

/-! ## afterTimer -/

@[simp] theorem afterTimer_ctrl (c : Bool) (out : History) (s : State) : (afterTimer c out s).ctrl = s.ctrl := rfl
@[simp] theorem afterTimer_ff (c : Bool) (out : History) (s : State) : (afterTimer c out s).ff = s.ff := rfl
@[simp] theorem afterTimer_c0out (c : Bool) (out : History) (s : State) : (afterTimer c out s).c0out = c := rfl
@[simp] theorem afterTimer_calArmed (c : Bool) (out : History) (s : State) : (afterTimer c out s).calArmed = s.calArmed := rfl
@[simp] theorem afterTimer_calTimer (c : Bool) (out : History) (s : State) : (afterTimer c out s).calTimer = s.calTimer := rfl
@[simp] theorem afterTimer_calPhase (c : Bool) (out : History) (s : State) : (afterTimer c out s).calPhase = s.calPhase := rfl
@[simp] theorem afterTimer_dac (c : Bool) (out : History) (s : State) : (afterTimer c out s).dac = s.dac := rfl
@[simp] theorem afterTimer_regsel (c : Bool) (out : History) (s : State) : (afterTimer c out s).regsel = s.regsel := rfl
@[simp] theorem afterTimer_csmask (c : Bool) (out : History) (s : State) : (afterTimer c out s).csmask = s.csmask := rfl
@[simp] theorem afterTimer_uartIrq (c : Bool) (out : History) (s : State) : (afterTimer c out s).uartIrq = s.uartIrq := rfl
@[simp] theorem afterTimer_nmiOut (c : Bool) (out : History) (s : State) : (afterTimer c out s).nmiOut = s.nmiOut := rfl
@[simp] theorem afterTimer_lines (c : Bool) (out : History) (s : State) : (afterTimer c out s).lines = { s.lines with gate1 := lastLevel .gate1 out s.lines.gate1, irq := lastLevel .irq out s.lines.irq } := rfl
@[simp] theorem afterTimer_voiceGain (c : Bool) (out : History) (s : State) : (afterTimer c out s).voiceGain = s.voiceGain := rfl
@[simp] theorem afterTimer_voiceVolt (c : Bool) (out : History) (s : State) : (afterTimer c out s).voiceVolt = s.voiceVolt := rfl
@[simp] theorem afterTimer_extClk (c : Bool) (out : History) (s : State) : (afterTimer c out s).extClk = s.extClk := rfl
@[simp] theorem afterTimer_readData (c : Bool) (out : History) (s : State) : (afterTimer c out s).readData = s.readData := rfl
@[simp] theorem afterTimer_trace (c : Bool) (out : History) (s : State) : (afterTimer c out s).trace = s.trace ++ out := rfl
@[simp] theorem afterTimer_draws (c : Bool) (out : History) (s : State) : (afterTimer c out s).draws = s.draws := rfl
@[simp] theorem afterTimer_inbox (c : Bool) (out : History) (s : State) : (afterTimer c out s).inbox = s.inbox := rfl

/-! ## supply -/

@[simp] theorem supply_ctrl (w : StimulusWord) (s : State) : (supply w s).ctrl = s.ctrl := rfl
@[simp] theorem supply_ff (w : StimulusWord) (s : State) : (supply w s).ff = s.ff := rfl
@[simp] theorem supply_c0out (w : StimulusWord) (s : State) : (supply w s).c0out = s.c0out := rfl
@[simp] theorem supply_calArmed (w : StimulusWord) (s : State) : (supply w s).calArmed = s.calArmed := rfl
@[simp] theorem supply_calTimer (w : StimulusWord) (s : State) : (supply w s).calTimer = s.calTimer := rfl
@[simp] theorem supply_calPhase (w : StimulusWord) (s : State) : (supply w s).calPhase = s.calPhase := rfl
@[simp] theorem supply_dac (w : StimulusWord) (s : State) : (supply w s).dac = s.dac := rfl
@[simp] theorem supply_regsel (w : StimulusWord) (s : State) : (supply w s).regsel = s.regsel := rfl
@[simp] theorem supply_csmask (w : StimulusWord) (s : State) : (supply w s).csmask = s.csmask := rfl
@[simp] theorem supply_uartIrq (w : StimulusWord) (s : State) : (supply w s).uartIrq = s.uartIrq := rfl
@[simp] theorem supply_nmiOut (w : StimulusWord) (s : State) : (supply w s).nmiOut = s.nmiOut := rfl
@[simp] theorem supply_lines (w : StimulusWord) (s : State) : (supply w s).lines = s.lines := rfl
@[simp] theorem supply_voiceGain (w : StimulusWord) (s : State) : (supply w s).voiceGain = s.voiceGain := rfl
@[simp] theorem supply_voiceVolt (w : StimulusWord) (s : State) : (supply w s).voiceVolt = s.voiceVolt := rfl
@[simp] theorem supply_extClk (w : StimulusWord) (s : State) : (supply w s).extClk = s.extClk := rfl
@[simp] theorem supply_readData (w : StimulusWord) (s : State) : (supply w s).readData = s.readData := rfl
@[simp] theorem supply_trace (w : StimulusWord) (s : State) : (supply w s).trace = s.trace := rfl
@[simp] theorem supply_draws (w : StimulusWord) (s : State) : (supply w s).draws = s.draws := rfl
@[simp] theorem supply_inbox (w : StimulusWord) (s : State) : (supply w s).inbox = s.inbox ++ [w] := rfl

/-! ## placeNext -/

@[simp] theorem placeNext_ctrl (w : StimulusWord) (s : State) : (placeNext w s).ctrl = s.ctrl := rfl
@[simp] theorem placeNext_ff (w : StimulusWord) (s : State) : (placeNext w s).ff = s.ff := rfl
@[simp] theorem placeNext_c0out (w : StimulusWord) (s : State) : (placeNext w s).c0out = s.c0out := rfl
@[simp] theorem placeNext_calArmed (w : StimulusWord) (s : State) : (placeNext w s).calArmed = s.calArmed := rfl
@[simp] theorem placeNext_calTimer (w : StimulusWord) (s : State) : (placeNext w s).calTimer = s.calTimer := rfl
@[simp] theorem placeNext_calPhase (w : StimulusWord) (s : State) : (placeNext w s).calPhase = s.calPhase := rfl
@[simp] theorem placeNext_dac (w : StimulusWord) (s : State) : (placeNext w s).dac = s.dac := rfl
@[simp] theorem placeNext_regsel (w : StimulusWord) (s : State) : (placeNext w s).regsel = s.regsel := rfl
@[simp] theorem placeNext_csmask (w : StimulusWord) (s : State) : (placeNext w s).csmask = s.csmask := rfl
@[simp] theorem placeNext_uartIrq (w : StimulusWord) (s : State) : (placeNext w s).uartIrq = s.uartIrq := rfl
@[simp] theorem placeNext_nmiOut (w : StimulusWord) (s : State) : (placeNext w s).nmiOut = s.nmiOut := rfl
@[simp] theorem placeNext_lines (w : StimulusWord) (s : State) : (placeNext w s).lines = s.lines := rfl
@[simp] theorem placeNext_voiceGain (w : StimulusWord) (s : State) : (placeNext w s).voiceGain = s.voiceGain := rfl
@[simp] theorem placeNext_voiceVolt (w : StimulusWord) (s : State) : (placeNext w s).voiceVolt = s.voiceVolt := rfl
@[simp] theorem placeNext_extClk (w : StimulusWord) (s : State) : (placeNext w s).extClk = s.extClk := rfl
@[simp] theorem placeNext_readData (w : StimulusWord) (s : State) : (placeNext w s).readData = s.readData := rfl
@[simp] theorem placeNext_trace (w : StimulusWord) (s : State) : (placeNext w s).trace = s.trace := rfl
@[simp] theorem placeNext_draws (w : StimulusWord) (s : State) : (placeNext w s).draws = s.draws := rfl
@[simp] theorem placeNext_inbox (w : StimulusWord) (s : State) : (placeNext w s).inbox = w :: s.inbox := rfl

/-! ## Lines -/

@[simp] theorem lineLevel_setLine_same (ln : Line) (v : Bool) (l : Lines) : lineLevel ln (setLine ln v l) = v := by
  cases ln <;> rfl

theorem lineLevel_setLine_other (ln m : Line) (v : Bool) (l : Lines) (h : m ≠ ln) :
    lineLevel m (setLine ln v l) = lineLevel m l := by
  cases ln <;> cases m <;> first | rfl | exact absurd rfl h

end Sys2Proof.Machine
end

