-- ==== Sys2Proof/Laws/Chain.lean ====
section
/-! SUPPORT. Everything a chain of collaborator events can do, said once: the timer's (20_memory.md R44, 10_state.md R31) and the
UART's (42_serial_link.md R111), and the operations that may start one. -/

namespace Sys2Proof.Machine

/-! ## Levels along a trace -/

@[simp] theorem lineLevels_nil (ln : Line) : lineLevels ln [] = [] := rfl

@[simp] theorem lineLevels_append (ln : Line) (a b : History) :
    lineLevels ln (a ++ b) = lineLevels ln a ++ lineLevels ln b := by
  simp [lineLevels]

@[simp] theorem lineLevels_cons (ln : Line) (ev : OutEvent) (a : History) :
    lineLevels ln (ev :: a) = (lineLevelOf ln ev).toList ++ lineLevels ln a := by
  cases h : lineLevelOf ln ev <;> simp [lineLevels, h]

@[simp] theorem gainCalls_append (a b : History) : gainCalls (a ++ b) = gainCalls a ++ gainCalls b := by
  simp [gainCalls]

@[simp] theorem voltageCalls_append (a b : History) :
    voltageCalls (a ++ b) = voltageCalls a ++ voltageCalls b := by
  simp [voltageCalls]

@[simp] theorem lastLevel_nil (ln : Line) (v : Bool) : lastLevel ln [] v = v := rfl

theorem lastLevel_append (ln : Line) (a b : History) (v : Bool) :
    lastLevel ln (a ++ b) v = lastLevel ln b (lastLevel ln a v) := by
  simp only [lastLevel, lineLevels_append, List.getLastD_eq_getLast?, List.getLast?_append]
  cases (lineLevels ln b).getLast? <;> simp

/-- A chain's output drives only GATE1 and IRQ. -/
theorem lineLevels_of_timerOutput {out : History} (h : ∀ ev ∈ out, isTimerOutput ev = true) {ln : Line}
    (h1 : ln ≠ .gate1) (h2 : ln ≠ .irq) : lineLevels ln out = [] := by
  refine List.filterMap_eq_nil_iff.2 fun ev hev => ?_
  have hh := h ev hev
  cases ev with
  | line m v => cases m <;> cases ln <;> simp_all [isTimerOutput, lineLevelOf]
  | _ => simp [isTimerOutput] at hh

theorem gainCalls_of_timerOutput {out : History} (h : ∀ ev ∈ out, isTimerOutput ev = true) :
    gainCalls out = [] := by
  refine List.filterMap_eq_nil_iff.2 fun ev hev => ?_
  have hh := h ev hev
  cases ev <;> simp_all [isTimerOutput, gainCallOf]

theorem voltageCalls_of_timerOutput {out : History} (h : ∀ ev ∈ out, isTimerOutput ev = true) :
    voltageCalls out = [] := by
  refine List.filterMap_eq_nil_iff.2 fun ev hev => ?_
  have hh := h ev hev
  cases ev <;> simp_all [isTimerOutput, voltageCallOf]

theorem lineLevels_of_uartOutput {out : History} (h : ∀ ev ∈ out, isUartOutput ev = true) {ln : Line}
    (h1 : ln ≠ .dataSent) : lineLevels ln out = [] := by
  refine List.filterMap_eq_nil_iff.2 fun ev hev => ?_
  have hh := h ev hev
  cases ev with
  | line m v => cases m <;> cases ln <;> simp_all [isUartOutput, lineLevelOf]
  | _ => simp [isUartOutput] at hh

/-! ## Timer chains -/

theorem afterTimer_nothing (s : State) : afterTimer s.c0out [] s = s := by
  simp [afterTimer]

theorem afterTimer_afterTimer (c c' : Bool) (a b : History) (s : State) :
    afterTimer c' b (afterTimer c a s) = afterTimer c' (a ++ b) s := by
  simp [afterTimer, lastLevel_append]

theorem afterTimer_nextDraw (c : Bool) (out : History) (s : State) :
    afterTimer c out (nextDraw s) = nextDraw (afterTimer c out s) := rfl

theorem TimerRaised.append {c0 c1 c2 : Bool} {a b : History} (h1 : TimerRaised c0 c1 a)
    (h2 : TimerRaised c1 c2 b) : TimerRaised c0 c2 (a ++ b) := by
  refine ⟨fun ev hev => ?_, fun hn => ?_⟩
  · rcases List.mem_append.1 hev with h | h
    · exact h1.1 ev h
    · exact h2.1 ev h
  · rw [lineLevels_append, List.append_eq_nil_iff] at hn
    rw [h2.2 hn.2, h1.2 hn.1]

theorem emitLine_gate1_eq (v : Bool) (s : State) :
    emitLine .gate1 v s = afterTimer s.c0out [.line .gate1 v] s := by
  simp [emitLine, afterTimer, setLine, lastLevel, lineLevelOf]

theorem out2Event_eq (v : Bool) (s : State) : out2Event v s = afterTimer s.c0out [.line .irq v] s := by
  simp [out2Event, emitLine, afterTimer, setLine, lastLevel, lineLevelOf]

/-- A chain drives only GATE1 and IRQ, and changes `C0OUT` only where it drives GATE1. -/
theorem timerRaised_chain (ch : TimerChain) (b : Bool) : TimerRaised b (recordedOut0 ch b) (timerOutput ch) := by
  induction ch generalizing b with
  | done => exact ⟨by simp [timerOutput], fun _ => rfl⟩
  | out0 v inner rest ihi ihr =>
    refine ⟨fun ev hev => ?_, by simp [timerOutput, lineLevelOf]⟩
    simp only [timerOutput, List.mem_cons, List.mem_append] at hev
    rcases hev with rfl | h | h
    · rfl
    · exact (ihi b).1 ev h
    · exact (ihr b).1 ev h
  | out2 v rest ihr =>
    have h1 : TimerRaised b b [.line .irq v] := ⟨by simp [isTimerOutput], fun _ => rfl⟩
    exact h1.append (ihr b)

@[simp] theorem afterChain_done (s : State) : afterChain .done s = s := afterTimer_nothing s

/-- An OUT0 event: GATE1, then what is chained there, then the record (R80), then the rest of the chain. -/
theorem afterChain_out0 (v : Bool) (inner rest : TimerChain) (s : State) :
    afterChain (.out0 v inner rest) s =
      afterChain rest { afterChain inner (emitLine .gate1 (!v) s) with c0out := v } := by
  simp [afterChain, afterTimer, timerOutput, recordedOut0, emitLine, setLine, lastLevel,
    List.getLast?_append, lineLevelOf, List.getLast?_cons]

theorem afterChain_out2 (v : Bool) (rest : TimerChain) (s : State) :
    afterChain (.out2 v rest) s = afterChain rest (out2Event v s) := by
  rw [out2Event_eq, afterChain, afterChain, afterTimer_afterTimer]
  rfl

/-- Everything a chain of timer events does. -/
theorem runTimerChain_eq (ch : TimerChain) (s : State) : runTimerChain ch s = afterChain ch s := by
  induction ch generalizing s with
  | done => exact (afterChain_done s).symm
  | out0 v inner rest ihi ihr => rw [runTimerChain, ihr, out0Around, ihi, afterChain_out0]
  | out2 v rest ihr => rw [runTimerChain, ihr, afterChain_out2]

/-- Everything the timer can do where it may raise events. -/
theorem timerMayChain_eq (e : Env) (s : State) :
    timerMayChain e s = afterChain (e.timerChain s.draws s.trace) (nextDraw s) :=
  runTimerChain_eq _ _

/-- Everything an emit on a line of the timer does. -/
theorem emitToTimer_eq (e : Env) (ln : Line) (v : Bool) (s : State) :
    emitToTimer e ln v s =
      afterChain (e.timerChain s.draws (s.trace ++ [.line ln v])) (nextDraw (emitLine ln v s)) :=
  timerMayChain_eq e (emitLine ln v s)

/-- Everything `set_flip_flop` does (40_counter_gate.md R78). -/
theorem setFlipFlop_eq (e : Env) (v : Bool) (s : State) :
    setFlipFlop e v s =
      { afterChain (e.timerChain s.draws (s.trace ++ [.line .clk0 (!v)])) (nextDraw (emitLine .clk0 (!v) s)) with
        ff := v } := by
  rw [setFlipFlop, emitToTimer_eq]

/-- Everything an OUT0 stimulus does (R80). -/
theorem out0Event_eq (e : Env) (v : Bool) (s : State) :
    out0Event e v s = nextDraw (afterTimer v
      (.line .gate1 (!v) :: timerOutput (e.timerChain s.draws (s.trace ++ [.line .gate1 (!v)]))) s) := by
  rw [out0Event, out0Around, timerMayChain_eq, emitLine_gate1_eq, afterChain, afterTimer_nextDraw, afterTimer_afterTimer]
  rfl

/-! ## UART chains -/

theorem afterUart_nothing (s : State) : afterUart s.uartIrq [] s = s := by
  simp [afterUart]

theorem afterUart_afterUart (q q' : Bool) (a b : History) (s : State) :
    afterUart q' b (afterUart q a s) = afterUart q' (a ++ b) s := by
  simp [afterUart, lastLevel_append]

theorem isUartOutput_chain (evs : List UartEvent) : ∀ ev ∈ uartOutput evs, isUartOutput ev = true := by
  induction evs with
  | nil => simp [uartOutput]
  | cons ev evs ih => cases ev <;> simpa [uartOutput, isUartOutput] using ih

@[simp] theorem afterUartChain_nil (s : State) : afterUartChain [] s = s := afterUart_nothing s

theorem afterUartChain_cons (ev : UartEvent) (evs : List UartEvent) (s : State) :
    afterUartChain (ev :: evs) s = afterUartChain evs (uartEvent ev s) := by
  cases ev with
  | irq v => rfl
  | txd v =>
    have h : uartEvent (.txd v) s = afterUart s.uartIrq [.line .dataSent v] s := by
      simp [uartEvent, uartTxdEvent, emitLine, afterUart, setLine, lastLevel, lineLevelOf]
    rw [h, afterUartChain, afterUartChain, afterUart_afterUart]
    rfl

/-- Everything a chain of UART events does. -/
theorem runUartChain_eq (evs : List UartEvent) (s : State) : runUartChain evs s = afterUartChain evs s := by
  induction evs generalizing s with
  | nil => exact (afterUartChain_nil s).symm
  | cons ev evs ih =>
    rw [afterUartChain_cons, ← ih]
    rfl

/-- Everything an emit on the UART's receive-data line does (42_serial_link.md R111). -/
theorem emitToUart_eq (e : Env) (v : Bool) (s : State) :
    emitToUart e v s =
      afterUartChain (e.uartChain s.draws (s.trace ++ [.line .uartRxd v])) (nextDraw (emitLine .uartRxd v s)) :=
  runUartChain_eq _ _

end Sys2Proof.Machine
end

