-- ==== Sys2Proof/Laws/Reals.lean ====
section
/-! SUPPORT. The marks of real numbers (00_scope.md R7): their order is the order of the reals, an anchor is its own mark, and every
sequence of reals, whatever numbers a run meets, has marks on some scale. -/

namespace Sys2Proof

/-! ## Order -/

theorem realAt_lt_realAt (a : Rat) (m n : RealMark) : realAt a m < realAt a n ↔ m.pos < n.pos := by
  simp [realAt, realOn]

theorem realAt_le_realAt (a : Rat) (m n : RealMark) : realAt a m ≤ realAt a n ↔ m.pos ≤ n.pos := by
  simp [realAt, realOn]

theorem realAt_anchor (a : Rat) : realAt a ⟨a⟩ = a := by
  simp [realAt, realOn]

theorem realAt_lt_anchor (a : Rat) (m : RealMark) : realAt a m < a ↔ m.pos < a := by
  rw [← realAt_lt_realAt a m ⟨a⟩, realAt_anchor]

theorem anchor_lt_realAt (a : Rat) (m : RealMark) : (a : ℝ) < realAt a m ↔ a < m.pos := by
  rw [← realAt_lt_realAt a ⟨a⟩ m, realAt_anchor]

theorem hertz_lt_hertz (m n : RealMark) : m.hertz < n.hertz ↔ m.pos < n.pos := realAt_lt_realAt 0 m n

theorem hertz_le_hertz (m n : RealMark) : m.hertz ≤ n.hertz ↔ m.pos ≤ n.pos := realAt_le_realAt 0 m n

theorem hertz_pos (m : RealMark) : 0 < m.hertz ↔ 0 < m.pos := by
  have := anchor_lt_realAt 0 m
  rwa [Rat.cast_zero] at this

/-! ## Every real has a mark -/

/-- An order isomorphism from the rationals to a dense set of reals extends to an automorphism of the reals. -/
theorem exists_orderIso_extending (T : Set ℝ) (hd : ∀ a b : ℝ, a < b → ∃ t ∈ T, a < t ∧ t < b) (φ : ℚ ≃o T) :
    ∃ scale : ℝ ≃o ℝ, ∀ q : ℚ, scale q = φ q := by
  have hmono : ∀ {q r : ℚ}, q < r → (φ q : ℝ) < φ r := fun h => φ.strictMono h
  have hlt : ∀ {q r : ℚ}, (φ q : ℝ) < φ r → q < r := fun h => φ.lt_iff_lt.1 h
  have hle : ∀ {q r : ℚ}, q ≤ r → (φ q : ℝ) ≤ φ r := fun h => φ.monotone h
  let A : ℝ → Set ℝ := fun x => (fun q : ℚ => (φ q : ℝ)) '' {q : ℚ | (q : ℝ) ≤ x}
  have hne : ∀ x, (A x).Nonempty := fun x => by
    obtain ⟨q, hq⟩ := exists_rat_lt x
    exact ⟨_, q, hq.le, rfl⟩
  have hub : ∀ (x : ℝ) (r : ℚ), x ≤ r → (φ r : ℝ) ∈ upperBounds (A x) := by
    rintro x r hr _ ⟨q, hq, rfl⟩
    exact hle (Rat.cast_le.1 (le_trans hq hr : (q : ℝ) ≤ r))
  have hbdd : ∀ x, BddAbove (A x) := fun x => by
    obtain ⟨r, hr⟩ := exists_rat_gt x
    exact ⟨_, hub x r hr.le⟩
  let F : ℝ → ℝ := fun x => sSup (A x)
  have hleF : ∀ (x : ℝ) (q : ℚ), (q : ℝ) ≤ x → (φ q : ℝ) ≤ F x := fun x q hq => le_csSup (hbdd x) ⟨q, hq, rfl⟩
  have hFle : ∀ (x : ℝ) (r : ℚ), x ≤ r → F x ≤ φ r := fun x r hr => csSup_le (hne x) (hub x r hr)
  have hFq : ∀ q : ℚ, F q = φ q := fun q => le_antisymm (hFle q q le_rfl) (hleF q q le_rfl)
  have hF : StrictMono F := fun x y hxy => by
    obtain ⟨q, hxq, hqy⟩ := exists_rat_btwn hxy
    obtain ⟨r, hqr, hry⟩ := exists_rat_btwn hqy
    exact (hFle x q hxq.le).trans_lt ((hmono (by exact_mod_cast hqr)).trans_le (hleF y r hry.le))
  have hsurj : Function.Surjective F := fun y => by
    let B : Set ℝ := (fun q : ℚ => (q : ℝ)) '' {q : ℚ | (φ q : ℝ) ≤ y}
    obtain ⟨t, ht, -, hty⟩ := hd (y - 1) y (by linarith)
    obtain ⟨u, hu, hyu, -⟩ := hd y (y + 1) (by linarith)
    have hBne : B.Nonempty := ⟨_, φ.symm ⟨t, ht⟩, by simpa using hty.le, rfl⟩
    have hBub : ∀ r : ℚ, y < φ r → (r : ℝ) ∈ upperBounds B := by
      rintro r hr _ ⟨q, hq, rfl⟩
      exact Rat.cast_le.2 (hlt (lt_of_le_of_lt hq hr)).le
    have hBdd : BddAbove B := ⟨_, hBub (φ.symm ⟨u, hu⟩) (by simpa using hyu)⟩
    refine ⟨sSup B, le_antisymm ?_ ?_⟩
    · by_contra h
      obtain ⟨t, ht, h1, h2⟩ := hd _ _ (not_le.1 h)
      have hb := hFle (sSup B) (φ.symm ⟨t, ht⟩) (csSup_le hBne (hBub _ (by simpa using h1)))
      simp only [OrderIso.apply_symm_apply] at hb
      exact absurd hb (not_le.2 h2)
    · by_contra h
      obtain ⟨t, ht, h1, h2⟩ := hd _ _ (not_le.1 h)
      have hb := hleF (sSup B) (φ.symm ⟨t, ht⟩) (le_csSup hBdd ⟨_, by simpa using h2.le, rfl⟩)
      simp only [OrderIso.apply_symm_apply] at hb
      exact absurd hb (not_le.2 h1)
  exact ⟨hF.orderIsoOfSurjective F hsurj, hFq⟩

/-- Whatever reals the collaborators supply, there is a scale on which each of them has a mark, under any anchor. -/
theorem every_real_has_a_mark (x : ℕ → ℝ) :
    ∃ scale : ℝ ≃o ℝ, ∀ (a : ℚ) (n : ℕ), ∃ m : RealMark, realOn scale a m = x n := by
  let T := Submodule.span ℚ (Set.range fun o : Option ℕ => o.elim (1 : ℝ) x)
  have hq : ∀ q : ℚ, (q : ℝ) ∈ T := fun q => by
    have : (1 : ℝ) ∈ T := Submodule.subset_span ⟨none, rfl⟩
    simpa [Rat.smul_def] using T.smul_mem q this
  have hd : ∀ a b : ℝ, a < b → ∃ t ∈ (T : Set ℝ), a < t ∧ t < b := fun a b h => by
    obtain ⟨q, h1, h2⟩ := exists_rat_btwn h
    exact ⟨q, hq q, h1, h2⟩
  have : Countable T := inferInstance
  have : Nonempty T := ⟨0⟩
  have : DenselyOrdered T := ⟨fun a b h => by
    obtain ⟨t, ht, h1, h2⟩ := hd a b h
    exact ⟨⟨t, ht⟩, h1, h2⟩⟩
  have : NoMinOrder T := ⟨fun a => by
    obtain ⟨t, ht, -, h2⟩ := hd ((a : ℝ) - 1) a (by linarith)
    exact ⟨⟨t, ht⟩, h2⟩⟩
  have : NoMaxOrder T := ⟨fun a => by
    obtain ⟨t, ht, h1, -⟩ := hd a ((a : ℝ) + 1) (by linarith)
    exact ⟨⟨t, ht⟩, h1⟩⟩
  obtain ⟨φ⟩ := Order.iso_of_countable_dense ℚ T
  obtain ⟨scale, hs⟩ := exists_orderIso_extending (T : Set ℝ) hd φ
  refine ⟨scale, fun a n => ?_⟩
  have hx : x n + (φ a : ℝ) - a ∈ T :=
    T.sub_mem (T.add_mem (Submodule.subset_span ⟨some n, rfl⟩) (φ a).2) (hq a)
  refine ⟨⟨φ.symm ⟨_, hx⟩⟩, ?_⟩
  rw [realOn, hs, hs, OrderIso.apply_symm_apply]
  ring

end Sys2Proof
end

