-- ==== Sys2Proof/Laws/ChipSelect.lean ====
section
/-! SUPPORT. What the voice operations, the recompute, the chip-select procedure and the replay do, said once
(40_counter_gate.md R72, R81; 41_dac_chipselect.md R96, R98). -/

namespace Sys2Proof.Machine

/-! ## One voice call -/

theorem voltageAt_setVoltage (k k' : Kind) (v : Rat) (i j : Voice) (s : State) :
    voltageAt (setVoltage k v i s) j k' = if j = i ∧ k' = k then .exact v else voltageAt s j k' := by
  have hk : k.index = k'.index ↔ k' = k := by cases k <;> cases k' <;> decide
  by_cases hj : j = i
  · subst hj
    simp only [voltageAt, setVoltage_voiceVolt, Fin.getElem_fin, Vector.getElem_set_self, Vector.getElem_set,
      true_and]
    by_cases h : k' = k <;> simp [h, ← Fin.ext_iff, hk]
  · have : (i : Nat) ≠ j := fun h => hj (Fin.ext h.symm)
    simp [voltageAt, hj, Vector.getElem_set_ne _ _ this]

theorem gainAt_setOutputGain (g : Rat) (i j : Voice) (s : State) :
    gainAt (setOutputGain g i s) j = if j = i then .exact g else gainAt s j := by
  simp only [gainAt, setOutputGain_voiceGain, Fin.getElem_fin, Vector.getElem_set, ← Fin.ext_iff, eq_comm]

theorem mem_voices (i : Voice) : i ∈ Voice.all := by
  revert i; decide

/-! ## Loops over the voices -/

/-- The fold of R98's loop over any list of voices. -/
theorem applyVoltage_fold (rise : BitVec 6) (k : Kind) (v : Rat) (L : List Voice) (s : State) :
    let t := L.foldl (fun t (i : Voice) => if rise.getLsbD i.val then setVoltage k v i t else t) s
    t = { s with voiceVolt := t.voiceVolt, trace := s.trace ++ (L.filter fun i => rise.getLsbD i.val).map fun i => .setVoltage i k v } ∧
    ∀ j k', voltageAt t j k' = if j ∈ L ∧ rise.getLsbD j.val = true ∧ k' = k then .exact v else voltageAt s j k' := by
  induction L generalizing s with
  | nil => simp
  | cons i L ih =>
    by_cases hb : rise.getLsbD i.val = true
    · obtain ⟨h1, h2⟩ := ih (setVoltage k v i s)
      simp only [List.foldl_cons, hb, if_true]
      refine ⟨?_, fun j k' => ?_⟩
      · rw [h1]; simp [setVoltage, hb]
      · rw [h2, voltageAt_setVoltage]
        by_cases hj : j = i <;> by_cases hk : k' = k <;> simp [hj, hk, hb]
    · have hb' : rise.getLsbD i.val = false := by simpa using hb
      obtain ⟨h1, h2⟩ := ih s
      simp only [List.foldl_cons, List.filter_cons, hb', Bool.false_eq_true, if_false]
      refine ⟨h1, fun j k' => ?_⟩
      rw [h2]
      by_cases hj : j = i
      · subst hj; simp only [hb', Bool.false_eq_true, false_and, and_false]
      · simp only [List.mem_cons, hj, false_or]

/-- The calls of R98's loop, in ascending order. -/
def voltageEvents (rise : BitVec 6) (k : Kind) (v : Rat) : History :=
  (Voice.all.filter fun i => rise.getLsbD i.val).map fun i => .setVoltage i k v

/-- Everything R98's loop does. -/
theorem applyVoltage_spec (rise : BitVec 6) (k : Kind) (v : Rat) (s : State) :
    applyVoltage rise k v s =
      { s with voiceVolt := (applyVoltage rise k v s).voiceVolt, trace := s.trace ++ voltageEvents rise k v } :=
  (applyVoltage_fold rise k v Voice.all s).1

theorem voltageAt_applyVoltage (rise : BitVec 6) (k k' : Kind) (v : Rat) (s : State) (j : Voice) :
    voltageAt (applyVoltage rise k v s) j k' =
      if rise.getLsbD j.val = true ∧ k' = k then .exact v else voltageAt s j k' := by
  have h := (applyVoltage_fold rise k v Voice.all s).2 j k'
  simp only [mem_voices, true_and] at h
  exact h

/-- The voltages R98's loop leaves, from those before it. -/
def appliedVoltages (rise : BitVec 6) (k : Kind) (v : Rat) (volts : Vector (Vector Level 8) 6) :
    Vector (Vector Level 8) 6 :=
  Voice.all.foldl (fun x (i : Voice) => if rise.getLsbD i.val then x.set i (x[i].set k.index (.exact v)) else x) volts

theorem applyVoltage_voiceVolt (rise : BitVec 6) (k : Kind) (v : Rat) (s : State) :
    (applyVoltage rise k v s).voiceVolt = appliedVoltages rise k v s.voiceVolt := by
  unfold applyVoltage appliedVoltages
  generalize Voice.all = L
  induction L generalizing s with
  | nil => rfl
  | cons i L ih =>
    simp only [List.foldl_cons]
    rw [ih]
    by_cases h : rise.getLsbD i.val = true
    · simp only [h, if_true, setVoltage_voiceVolt]
    · simp only [if_neg h]

/-- R98's loop as one update. -/
theorem applyVoltage_eq (rise : BitVec 6) (k : Kind) (v : Rat) (s : State) :
    applyVoltage rise k v s =
      { s with voiceVolt := appliedVoltages rise k v s.voiceVolt, trace := s.trace ++ voltageEvents rise k v } := by
  rw [← applyVoltage_voiceVolt]
  exact applyVoltage_spec rise k v s

theorem applyVoltage_none (k : Kind) (v : Rat) (s : State) : applyVoltage 0 k v s = s := by
  simp [applyVoltage]

/-- The loop of R72 over all six voices. -/
theorem setOutputGain_fold (g : Rat) (L : List Voice) (s : State) :
    let t := L.foldl (fun t i => setOutputGain g i t) s
    t = { s with voiceGain := t.voiceGain, trace := s.trace ++ L.map fun i => .setOutputGain i g } ∧
    ∀ j, gainAt t j = if j ∈ L then .exact g else gainAt s j := by
  induction L generalizing s with
  | nil => simp
  | cons i L ih =>
    obtain ⟨h1, h2⟩ := ih (setOutputGain g i s)
    refine ⟨?_, fun j => ?_⟩
    · simp only [List.foldl_cons]
      rw [h1]; simp [setOutputGain]
    · simp only [List.foldl_cons]
      rw [h2, gainAt_setOutputGain]
      by_cases hj : j = i <;> simp [hj]

/-! ## The recompute (R81) -/

/-- Everything `recompute` does. -/
theorem recompute_eq (e : Env) (s : State) :
    recompute e s = { s with
      calTimer := timerFor (calibrationMaximum (e.voiceParam s.draws s.trace)), calPhase := 0, draws := s.draws + 1 } :=
  rfl

theorem timerFor_running {m f : RealMark} (h : timerFor m = .running f) : 0 < f.hertz ∧ f = m := by
  unfold timerFor at h
  split at h
  · next hm => cases h; exact ⟨(hertz_pos m).2 hm, rfl⟩
  · cases h

/-- In reals: a maximum above 0.0 Hz restarts the timer, any other leaves it stopped. -/
theorem timerFor_of_pos {m : RealMark} (h : 0 < m.hertz) : timerFor m = .running m := if_pos ((hertz_pos m).1 h)

theorem timerFor_of_not_pos {m : RealMark} (h : ¬ 0 < m.hertz) : timerFor m = .stopped :=
  if_neg fun hm => h ((hertz_pos m).2 hm)

/-- A read-back compares below its own anchor when its real does. -/
theorem readsBelow_anchor (k : Kind) (x : ReadBack) :
    readsBelow x (Config.anchor k) = true ↔ ∃ r, ReadsReal k x r ∧ r < Config.anchor k := by
  cases x with
  | num m => simp [readsBelow, ReadsReal, realAt_lt_anchor]
  | notANumber => simp [readsBelow, ReadsReal]

theorem readsAbove_anchor (k : Kind) (x : ReadBack) :
    readsAbove x (Config.anchor k) = true ↔ ∃ r, ReadsReal k x r ∧ (Config.anchor k : ℝ) < r := by
  cases x with
  | num m => simp [readsAbove, ReadsReal, anchor_lt_realAt]
  | notANumber => simp [readsAbove, ReadsReal]

/-! ## `write_chip_select` (R98) -/

/-- The timer, phase and moment a chip-select write leaves: one recompute when armed, none otherwise. -/
theorem writeChipSelect_spec (e : Env) (mask : BitVec 6) (s : State) :
    ∃ ct ph n,
      writeChipSelect e mask s =
        { applyVoltage (risingEdges s.csmask mask) (kindOf s.regsel) (voltage s.dac) s with
          csmask := mask, calTimer := ct, calPhase := ph, draws := n } ∧
      (s.calArmed = false → ct = s.calTimer ∧ ph = s.calPhase ∧ n = s.draws) ∧
      (s.calArmed = true →
        ct = timerFor (calibrationMaximum (e.voiceParam s.draws
          (s.trace ++ voltageEvents (risingEdges s.csmask mask) (kindOf s.regsel) (voltage s.dac)))) ∧
        ph = 0 ∧ n = s.draws + 1) := by
  have ha := applyVoltage_spec (risingEdges s.csmask mask) (kindOf s.regsel) (voltage s.dac) s
  unfold writeChipSelect
  generalize applyVoltage (risingEdges s.csmask mask) (kindOf s.regsel) (voltage s.dac) s = t at *
  rw [ha]
  cases h : s.calArmed
  · exact ⟨s.calTimer, s.calPhase, s.draws, by simp, by simp, by simp⟩
  · refine ⟨_, 0, s.draws + 1, ?_, by simp, fun _ => ⟨rfl, rfl, rfl⟩⟩
    simp [recompute, nextDraw]

/-! ## `replay` and the DAC writes (R95, R96) -/

theorem risingEdges_to_zero (a : BitVec 6) : risingEdges a 0 = 0 := by simp [risingEdges]

theorem risingEdges_from_zero (a : BitVec 6) : risingEdges 0 a = a := by simp [risingEdges, edges]

/-- With all six voices enabled there is no replay (90_conflicts.md C2). -/
theorem replay_all (e : Env) (s : State) (h : s.csmask = 0b111111#6) : replay e s = s := by
  simp [replay, h]

/-- Otherwise the enabled voices receive the latch's voltage, the mask is as before, and an armed block recomputes twice. -/
theorem replay_some (e : Env) (s : State) (h : s.csmask ≠ 0b111111#6) :
    ∃ ct ph n,
      replay e s =
        { applyVoltage s.csmask (kindOf s.regsel) (voltage s.dac) s with calTimer := ct, calPhase := ph, draws := n } ∧
      (s.calArmed = false → ct = s.calTimer ∧ ph = s.calPhase ∧ n = s.draws) ∧
      (s.calArmed = true →
        ct = timerFor (calibrationMaximum (e.voiceParam (s.draws + 1)
          (s.trace ++ voltageEvents s.csmask (kindOf s.regsel) (voltage s.dac)))) ∧
        ph = 0 ∧ n = s.draws + 2) := by
  rw [replay, if_pos h]
  obtain ⟨ct, ph, n, h1, hf, ht⟩ := writeChipSelect_spec e 0 s
  rw [risingEdges_to_zero, applyVoltage_none] at h1
  obtain ⟨ct', ph', n', h2, hf', ht'⟩ := writeChipSelect_spec e s.csmask (writeChipSelect e 0 s)
  have e1 : (writeChipSelect e 0 s).csmask = 0 := by rw [h1]
  have e2 : (writeChipSelect e 0 s).calArmed = s.calArmed := by rw [h1]
  have e3 : (writeChipSelect e 0 s).calTimer = ct := by rw [h1]
  have e4 : (writeChipSelect e 0 s).calPhase = ph := by rw [h1]
  have e5 : (writeChipSelect e 0 s).draws = n := by rw [h1]
  have e6 : (writeChipSelect e 0 s).trace = s.trace := by rw [h1]
  have e7 : (writeChipSelect e 0 s).regsel = s.regsel := by rw [h1]
  have e8 : (writeChipSelect e 0 s).dac = s.dac := by rw [h1]
  rw [e1, e7, e8, risingEdges_from_zero] at h2 ht'
  rw [e2] at hf' ht'
  rw [e5, e6] at ht'
  rw [e3, e4, e5] at hf'
  refine ⟨ct', ph', n', ?_, fun ha => ?_, fun ha => ?_⟩
  · rw [h2, applyVoltage_eq, applyVoltage_eq, h1]
  · obtain ⟨rfl, rfl, rfl⟩ := hf ha
    exact hf' ha
  · obtain ⟨-, -, rfl⟩ := ht ha
    exact ht' ha

/-- A DAC write is the replay of the new latch. -/
theorem writeDacHalf_high (e : Env) (data : Byte) (s : State) :
    writeDacHalf e 0xA data s = replay e { s with dac := withHighHalf s.dac data } := rfl

theorem writeDacHalf_low (e : Env) (data : Byte) (s : State) :
    writeDacHalf e 0xB data s = replay e { s with dac := withLowHalf s.dac data } := rfl

end Sys2Proof.Machine
end

