-- ==== Sys2Proof/Laws/ControlWrite.lean ====
section
/-! SUPPORT. What each of the five steps of a control write does, and what they do together (40_counter_gate.md R71 to R76). -/

namespace Sys2Proof.Machine

/-- Everything step 1 does. -/
theorem step1Audio_spec (diff data : Byte) (s : State) :
    ∃ g, step1Audio diff data s = { s with voiceGain := g, trace := s.trace ++ gainEvents diff data } ∧
      (audioEn diff = false → g = s.voiceGain) ∧
      (audioEn diff = true → ∀ i : Voice, g[i] = .exact (if audioEn data then 1 else 0)) := by
  cases h : audioEn diff
  · exact ⟨s.voiceGain, by simp [step1Audio, gainEvents, h], fun _ => rfl, by simp⟩
  · obtain ⟨h1, h2⟩ := setOutputGain_fold (if audioEn data then 1 else 0) Voice.all s
    refine ⟨(Voice.all.foldl (fun t i => setOutputGain (if audioEn data then 1 else 0) i t) s).voiceGain, ?_,
      by simp, fun _ i => ?_⟩
    · simp only [step1Audio, gainEvents, h, if_true]
      exact h1
    · have := h2 i
      simp only [mem_voices, if_true] at this
      exact this

/-- Everything step 2 does (R73). -/
theorem step2Arm_spec (e : Env) (diff data : Byte) (s : State) :
    ∃ a ct ph, step2Arm e diff data s = { s with
        calArmed := a, calTimer := ct, calPhase := ph
        draws := if gate0Bit diff && gate0Bit data && !s.calArmed then s.draws + 1 else s.draws } ∧
      (gate0Bit diff = false → a = s.calArmed ∧ ct = s.calTimer ∧ ph = s.calPhase) ∧
      (gate0Bit diff = true → gate0Bit data = false → a = false ∧ ct = .stopped ∧ ph = 0) ∧
      (gate0Bit diff = true → gate0Bit data = true → s.calArmed = true →
        a = true ∧ ct = s.calTimer ∧ ph = s.calPhase) ∧
      (gate0Bit diff = true → gate0Bit data = true → s.calArmed = false →
        a = true ∧ ph = 0 ∧ ct = timerFor (calibrationMaximum (e.voiceParam s.draws s.trace))) := by
  cases hd : gate0Bit diff
  · exact ⟨s.calArmed, s.calTimer, s.calPhase, by simp [step2Arm, hd], fun _ => ⟨rfl, rfl, rfl⟩, by simp, by simp, by simp⟩
  · cases hb : gate0Bit data
    · exact ⟨false, .stopped, 0, by simp [step2Arm, hd, hb], by simp, fun _ _ => ⟨rfl, rfl, rfl⟩, by simp, by simp⟩
    · cases ha : s.calArmed
      · exact ⟨true, timerFor (calibrationMaximum (e.voiceParam s.draws s.trace)), 0,
          by simp [step2Arm, hd, hb, ha, recompute, nextDraw], by simp, by simp, by simp, fun _ _ _ => ⟨rfl, rfl, rfl⟩⟩
      · exact ⟨s.calArmed, s.calTimer, s.calPhase, by
          rw [step2Arm, hd, hb, if_pos rfl, if_pos rfl, if_pos ha, if_neg (by simp)], by simp, by simp,
          fun _ _ _ => ⟨ha, rfl, rfl⟩, by simp⟩

/-- The flip-flop after step 4 (R75). -/
def forcedFlipFlop (data : Byte) (ff : Bool) : Bool :=
  if ffClearN data = false then false else if ffPresetN data = false then true else ff

/-- Everything step 4 does. -/
theorem step4FlipFlop_eq (e : Env) (data : Byte) (s : State) :
    step4FlipFlop e data s =
      { afterChain (if forcedEvents data = [] then .done else e.timerChain s.draws (s.trace ++ forcedEvents data)) { s with
        lines := { s.lines with clk0 := lastLevel .clk0 (forcedEvents data) s.lines.clk0 }
        trace := s.trace ++ forcedEvents data
        draws := s.draws + (if forcedEvents data = [] then 0 else 1) } with ff := forcedFlipFlop data s.ff } := by
  cases hc : ffClearN data
  · simp [step4FlipFlop, hc, setFlipFlop_eq, forcedFlipFlop, forcedEvents, nextDraw, emitLine, setLine, lastLevel, lineLevelOf]
  · cases hp : ffPresetN data
    · simp [step4FlipFlop, hc, hp, setFlipFlop_eq, forcedFlipFlop, forcedEvents, nextDraw, emitLine, setLine, lastLevel,
        lineLevelOf]
    · simp [step4FlipFlop, hc, hp, forcedFlipFlop, forcedEvents]

/-- Everything step 5 does. -/
theorem step5Nmi_eq (diff data : Byte) (s : State) :
    step5Nmi diff data s = { s with
      nmiOut := if nmiEn diff && !nmiEn data then false else s.nmiOut
      lines := { s.lines with nmi := lastLevel .nmi (nmiClearEvents diff data) s.lines.nmi }
      trace := s.trace ++ nmiClearEvents diff data } := by
  cases h : nmiEn diff && !nmiEn data <;> simp [step5Nmi, nmiClearEvents, h, driveNmi, setLine, lastLevel, lineLevelOf]

/-- Everything a control write does, with the output in its order (R71). -/
theorem controlWrite_spec (e : Env) (data : Byte) (s : State) :
    ∃ g a ct ph,
      controlWrite e data s = { s with
        ctrl := data
        ff := forcedFlipFlop data s.ff
        c0out := recordedOut0 (clockChain e data s) (recordedOut0 (gateChain e data s) s.c0out)
        calArmed := a
        calTimer := ct
        calPhase := ph
        nmiOut := if nmiEn (edges s.ctrl data) && !nmiEn data then false else s.nmiOut
        lines := { s.lines with
          clk0 := lastLevel .clk0 (forcedEvents data) s.lines.clk0
          gate0 := gate0Bit data
          gate1 := lastLevel .gate1 (timerOutput (gateChain e data s) ++ timerOutput (clockChain e data s)) s.lines.gate1
          irq := lastLevel .irq (timerOutput (gateChain e data s) ++ timerOutput (clockChain e data s)) s.lines.irq
          nmi := lastLevel .nmi (nmiClearEvents (edges s.ctrl data) data) s.lines.nmi }
        voiceGain := g
        trace := s.trace ++ (gainEvents (edges s.ctrl data) data ++ [.line .gate0 (gate0Bit data)] ++
          timerOutput (gateChain e data s) ++ forcedEvents data ++ timerOutput (clockChain e data s) ++
          nmiClearEvents (edges s.ctrl data) data)
        draws := drawsAfterControl data s } ∧
      (audioEn (edges s.ctrl data) = false → g = s.voiceGain) ∧
      (audioEn (edges s.ctrl data) = true → ∀ i : Voice, g[i] = .exact (if audioEn data then 1 else 0)) ∧
      (gate0Bit (edges s.ctrl data) = false → a = s.calArmed ∧ ct = s.calTimer ∧ ph = s.calPhase) ∧
      (gate0Bit (edges s.ctrl data) = true → gate0Bit data = false → a = false ∧ ct = .stopped ∧ ph = 0) ∧
      (gate0Bit (edges s.ctrl data) = true → gate0Bit data = true → s.calArmed = true →
        a = true ∧ ct = s.calTimer ∧ ph = s.calPhase) ∧
      (gate0Bit (edges s.ctrl data) = true → gate0Bit data = true → s.calArmed = false →
        a = true ∧ ph = 0 ∧
        ct = timerFor (calibrationMaximum
          (e.voiceParam s.draws (s.trace ++ gainEvents (edges s.ctrl data) data)))) := by
  obtain ⟨g, h1, hg0, hg1⟩ := step1Audio_spec (edges s.ctrl data) data { s with ctrl := data }
  rw [controlWrite]
  generalize step1Audio (edges s.ctrl data) data { s with ctrl := data } = s1 at h1 ⊢
  obtain ⟨a, ct, ph, h2, ha0, ha1, ha2, ha3⟩ := step2Arm_spec e (edges s.ctrl data) data s1
  generalize step2Arm e (edges s.ctrl data) data s1 = s2 at h2 ⊢
  subst h1 h2
  refine ⟨g, a, ct, ph, ?_, hg0, hg1, ha0, ha1, ha2, ha3⟩
  rw [step5Nmi_eq, step4FlipFlop_eq, step3Gate0, emitToTimer_eq]
  by_cases hf : forcedEvents data = []
  · simp [afterChain, afterTimer, nextDraw, emitLine, setLine, gateChain, clockChain, historyAtGate0, drawsAfterArm,
      drawsAfterControl, hf, timerOutput, recordedOut0]
  · simp [afterChain, afterTimer, nextDraw, emitLine, setLine, lastLevel_append, gateChain, clockChain, historyAtGate0,
      drawsAfterArm, drawsAfterControl, hf]

/-- The two chains of a control write drive only GATE1 and IRQ, and change `C0OUT` only where they drive GATE1. -/
theorem timerRaised_controlWrite (e : Env) (data : Byte) (s : State) :
    TimerRaised s.c0out (recordedOut0 (clockChain e data s) (recordedOut0 (gateChain e data s) s.c0out))
      (timerOutput (gateChain e data s) ++ timerOutput (clockChain e data s)) :=
  (timerRaised_chain _ _).append (timerRaised_chain _ _)

end Sys2Proof.Machine
end

