-- ==== Sys2Proof/Laws/Output.lean ====
section
/-! SUPPORT. What a step's output is made of, and which levels and calls the output of a control write holds
(40_counter_gate.md R71 to R76). -/

namespace Sys2Proof.Machine

/-- A step that adds `out` to the trace has the output `out` (00_scope.md R12). -/
theorem newOutput_of_trace {s t : State} {out : History} (h : t.trace = s.trace ++ out) : newOutput s t = out := by
  simp [newOutput, h]

/-! ## The edge set bit by bit (00_scope.md R10) -/

theorem audioEn_edges (a b : Byte) : audioEn (edges a b) = (a.getLsbD 0 != b.getLsbD 0) := by simp [audioEn, edges]

theorem gate0Bit_edges (a b : Byte) : gate0Bit (edges a b) = (a.getLsbD 1 != b.getLsbD 1) := by
  simp [gate0Bit, edges]

theorem nmiEn_edges (a b : Byte) : nmiEn (edges a b) = (a.getLsbD 5 != b.getLsbD 5) := by simp [nmiEn, edges]

theorem getLsbD_risingEdges (a b : BitVec w) (i : Nat) :
    (risingEdges a b).getLsbD i = (!a.getLsbD i && b.getLsbD i) := by
  simp only [risingEdges, edges, BitVec.getLsbD_and, BitVec.getLsbD_xor]
  cases a.getLsbD i <;> cases b.getLsbD i <;> rfl

/-! ## The three kinds of output of a control write -/

theorem lineLevels_gainEvents (ln : Line) (diff data : Byte) : lineLevels ln (gainEvents diff data) = [] := by
  unfold gainEvents; split <;> simp [lineLevels, lineLevelOf]

theorem lineLevels_nmiClearEvents {ln : Line} (diff data : Byte) (h : ln ≠ .nmi) :
    lineLevels ln (nmiClearEvents diff data) = [] := by
  unfold nmiClearEvents; split <;> simp [lineLevels, lineLevelOf, h.symm]

theorem lineLevels_forcedEvents {ln : Line} (data : Byte) (h : ln ≠ .clk0) :
    lineLevels ln (forcedEvents data) = [] := by
  unfold forcedEvents; split <;> (try split) <;> simp [lineLevels, lineLevelOf, h.symm]

theorem gainCalls_forcedEvents (data : Byte) : gainCalls (forcedEvents data) = [] := by
  unfold forcedEvents; split <;> (try split) <;> simp [gainCalls, gainCallOf]

theorem gainCalls_nmiClearEvents (diff data : Byte) : gainCalls (nmiClearEvents diff data) = [] := by
  unfold nmiClearEvents; split <;> simp [gainCalls, gainCallOf]

end Sys2Proof.Machine
end

