-- ==== Sys2Proof/Laws/PerInstr.lean ====
section
/-! SUPPORT. A statement about every stimulus, constructor by constructor: its word has the fixed bits of its row of
opcode_table.json (30_encoding.md R54 to R58). -/

namespace Sys2Proof.Laws.EncodedInRow

def Statement (i : Instr) : Prop := inRow i (encode i)

/-- A mask with no data bits sees only the upper byte of a bus word. -/
theorem busWord_and_mask (w : Bool) (off : BitVec 4) (data : Byte) (m : BitVec 8) :
    busWord w off data &&& (m ++ 0#8) = busWord w off 0 &&& (m ++ 0#8) := by
  apply BitVec.eq_of_getLsbD_eq
  intro i hi
  simp only [busWord, BitVec.getLsbD_and, BitVec.getLsbD_append]
  by_cases h : i < 8 <;> simp [h]

theorem timerRd (off : BitVec 2) : Statement (.timerRd off) := by
  unfold Statement inRow; revert off; decide

theorem timerWr (off : BitVec 2) (data : Byte) : Statement (.timerWr off data) := by
  refine (busWord_and_mask _ _ data 0xFC#8).trans ?_
  simp only [opcodeRow]; revert off; decide

theorem stateRd : Statement (.stateRd) := by
  unfold Statement inRow; decide

theorem ctrlWr (data : Byte) : Statement (.ctrlWr data) := by
  refine (busWord_and_mask _ _ data 0xFF#8).trans ?_
  simp only [opcodeRow]; decide

theorem dachWr (data : Byte) : Statement (.dachWr data) := by
  refine (busWord_and_mask _ _ data 0xFF#8).trans ?_
  simp only [opcodeRow]; decide

theorem daclWr (data : Byte) : Statement (.daclWr data) := by
  refine (busWord_and_mask _ _ data 0xFF#8).trans ?_
  simp only [opcodeRow]; decide

theorem regselWr (data : Byte) : Statement (.regselWr data) := by
  refine (busWord_and_mask _ _ data 0xFF#8).trans ?_
  simp only [opcodeRow]; decide

theorem cselWr (data : Byte) : Statement (.cselWr data) := by
  refine (busWord_and_mask _ _ data 0xFF#8).trans ?_
  simp only [opcodeRow]; decide

theorem openRd4 (off : BitVec 4) : Statement (.openRd4 off) := by
  unfold Statement inRow; revert off; decide

theorem openRd9 : Statement (.openRd9) := by
  unfold Statement inRow; decide

theorem openRdA (off : BitVec 4) : Statement (.openRdA off) := by
  unfold Statement inRow; revert off; decide

theorem openRdC (off : BitVec 4) : Statement (.openRdC off) := by
  unfold Statement inRow; revert off; decide

theorem ignoreWr4 (off : BitVec 4) (data : Byte) : Statement (.ignoreWr4 off data) := by
  refine (busWord_and_mask _ _ data 0xFC#8).trans ?_
  simp only [opcodeRow]; revert off; decide

theorem ignoreWr9 (data : Byte) : Statement (.ignoreWr9 data) := by
  refine (busWord_and_mask _ _ data 0xFF#8).trans ?_
  simp only [opcodeRow]; decide

theorem ignoreWrD (data : Byte) : Statement (.ignoreWrD data) := by
  refine (busWord_and_mask _ _ data 0xFF#8).trans ?_
  simp only [opcodeRow]; decide

theorem ignoreWrF (data : Byte) : Statement (.ignoreWrF data) := by
  refine (busWord_and_mask _ _ data 0xFF#8).trans ?_
  simp only [opcodeRow]; decide

theorem reset : Statement (.reset) := by
  unfold Statement inRow; decide

theorem calTick : Statement (.calTick) := by
  unfold Statement inRow; decide

theorem out0 (level : Bool) : Statement (.out0 level) := by
  unfold Statement inRow; revert level; decide

theorem out2 (level : Bool) : Statement (.out2 level) := by
  unfold Statement inRow; revert level; decide

theorem uartClk (level : Bool) : Statement (.uartClk level) := by
  unfold Statement inRow; revert level; decide

theorem uartIrq (level : Bool) : Statement (.uartIrq level) := by
  unfold Statement inRow; revert level; decide

theorem uartTxd (level : Bool) : Statement (.uartTxd level) := by
  unfold Statement inRow; revert level; decide

theorem serialIn (level : Bool) : Statement (.serialIn level) := by
  unfold Statement inRow; revert level; decide

end Sys2Proof.Laws.EncodedInRow
end

