-- ==== Sys2Proof/Tests/Slice0.lean ====
section
/-! SUPPORT. The model's own tests: which terms are stimuli, one word of every opcode-table row written out from 30_encoding.md, one
or two vectors of 95_test_vectors.md per instruction, and for every statement with hypotheses a state and operands that meet them. -/

namespace Sys2Proof.Tests

open Sys2Proof.Machine

/-! ## Ill-formed terms (30_encoding.md R58) -/

theorem test_openRd4_rejects_other_rows :
    WellFormed (.openRd4 0x3) = false ∧ WellFormed (.openRd4 0x8) = false := by decide

theorem test_openRdA_rejects_other_rows :
    WellFormed (.openRdA 0x9) = false ∧ WellFormed (.openRdA 0xC) = false := by decide

theorem test_openRdC_rejects_other_rows :
    WellFormed (.openRdC 0xB) = false ∧ WellFormed (.openRdC 0x0) = false := by decide

theorem test_ignoreWr4_rejects_other_rows :
    WellFormed (.ignoreWr4 0x3 0x55) = false ∧ WellFormed (.ignoreWr4 0x8 0x55) = false := by decide

/-! ## One word per row (95_test_vectors.md 2.1; the bits are R55's `0 00 W off data` and R56's `1 000 code 0000000 level`) -/

theorem test_decode_counter_family :
    decode (0b0#1 ++ 0b00#2 ++ 0b0#1 ++ 0b0011#4 ++ 0b00000000#8) = .ok (.timerRd 3) ∧
    decode (0b0#1 ++ 0b00#2 ++ 0b1#1 ++ 0b0010#4 ++ 0b00110100#8) = .ok (.timerWr 2 0x34) ∧
    decode (0b0#1 ++ 0b00#2 ++ 0b0#1 ++ 0b1000#4 ++ 0b11111111#8) = .ok .stateRd ∧
    decode (0b0#1 ++ 0b00#2 ++ 0b1#1 ++ 0b1000#4 ++ 0b00100001#8) = .ok (.ctrlWr 0x21) := by decide

theorem test_decode_dac_family :
    decode (0b0#1 ++ 0b00#2 ++ 0b1#1 ++ 0b1010#4 ++ 0b11111100#8) = .ok (.dachWr 0xFC) ∧
    decode (0b0#1 ++ 0b00#2 ++ 0b1#1 ++ 0b1011#4 ++ 0b00000100#8) = .ok (.daclWr 0x04) ∧
    decode (0b0#1 ++ 0b00#2 ++ 0b1#1 ++ 0b1100#4 ++ 0b00000011#8) = .ok (.regselWr 0x03) ∧
    decode (0b0#1 ++ 0b00#2 ++ 0b1#1 ++ 0b1110#4 ++ 0b00111111#8) = .ok (.cselWr 0x3F) := by decide

theorem test_decode_window_gaps :
    decode (0b0#1 ++ 0b00#2 ++ 0b0#1 ++ 0b0100#4 ++ 0b00000000#8) = .ok (.openRd4 0x4) ∧
    decode (0b0#1 ++ 0b00#2 ++ 0b0#1 ++ 0b1001#4 ++ 0b00000000#8) = .ok .openRd9 ∧
    decode (0b0#1 ++ 0b00#2 ++ 0b0#1 ++ 0b1010#4 ++ 0b00000000#8) = .ok (.openRdA 0xA) ∧
    decode (0b0#1 ++ 0b00#2 ++ 0b0#1 ++ 0b1110#4 ++ 0b00000000#8) = .ok (.openRdC 0xE) ∧
    decode (0b0#1 ++ 0b00#2 ++ 0b1#1 ++ 0b0101#4 ++ 0b00000001#8) = .ok (.ignoreWr4 0x5 0x01) ∧
    decode (0b0#1 ++ 0b00#2 ++ 0b1#1 ++ 0b1001#4 ++ 0b01010101#8) = .ok (.ignoreWr9 0x55) ∧
    decode (0b0#1 ++ 0b00#2 ++ 0b1#1 ++ 0b1101#4 ++ 0b00000011#8) = .ok (.ignoreWrD 0x03) ∧
    decode (0b0#1 ++ 0b00#2 ++ 0b1#1 ++ 0b1111#4 ++ 0b11111111#8) = .ok (.ignoreWrF 0xFF) := by decide

theorem test_decode_events :
    decode (0b1#1 ++ 0b000#3 ++ 0b0000#4 ++ 0b0000000#7 ++ 0b0#1) = .ok .reset ∧
    decode (0b1#1 ++ 0b000#3 ++ 0b0001#4 ++ 0b0000000#7 ++ 0b0#1) = .ok .calTick ∧
    decode (0b1#1 ++ 0b000#3 ++ 0b0010#4 ++ 0b0000000#7 ++ 0b1#1) = .ok (.out0 true) ∧
    decode (0b1#1 ++ 0b000#3 ++ 0b0011#4 ++ 0b0000000#7 ++ 0b0#1) = .ok (.out2 false) ∧
    decode (0b1#1 ++ 0b000#3 ++ 0b0100#4 ++ 0b0000000#7 ++ 0b1#1) = .ok (.uartClk true) ∧
    decode (0b1#1 ++ 0b000#3 ++ 0b0101#4 ++ 0b0000000#7 ++ 0b1#1) = .ok (.uartIrq true) ∧
    decode (0b1#1 ++ 0b000#3 ++ 0b0110#4 ++ 0b0000000#7 ++ 0b0#1) = .ok (.uartTxd false) ∧
    decode (0b1#1 ++ 0b000#3 ++ 0b0111#4 ++ 0b0000000#7 ++ 0b1#1) = .ok (.serialIn true) := by decide

theorem test_decode_refuses_reserved_words :
    decode 0x2000 = .error .reservedBits ∧ decode 0x6800 = .error .reservedBits ∧
    decode 0x8001 = .error .reservedBits ∧ decode 0x8101 = .error .reservedBits ∧
    decode 0x8402 = .error .reservedBits ∧ decode 0x9401 = .error .reservedBits ∧
    decode 0x8800 = .error .reservedEventCode ∧ decode 0x8F01 = .error .reservedEventCode := by decide

/-! ## Collaborators that stay quiet, and a small state -/

/-- A voice's read-backs, by their marks. -/
def voice (gain resonance filter vco : Rat) (k : Kind) : ReadBack :=
  match k with
  | .finalGain => .num ⟨gain⟩
  | .filterResonance => .num ⟨resonance⟩
  | .filterFrequency => .num ⟨filter⟩
  | .vcoFrequency => .num ⟨vco⟩
  | _ => .num ⟨0⟩

/-- Voice `i` as given, every other voice with a final gain of 20 (95_test_vectors.md 2.6). -/
def bank (i : Voice) (gain resonance filter vco : Rat) (j : Voice) : Kind → ReadBack :=
  if j = i then voice gain resonance filter vco else voice 20 0 0 0

/-- Collaborators that raise no event and read no voice as qualifying. -/
def quiet : Env where
  openBus := fun _ _ off => 0xF0 + off.setWidth 8
  resetC0out := fun _ _ => true
  lineAtReset := fun _ _ _ => true
  voiceGainAtReset := fun _ _ _ => ⟨7⟩
  voiceVoltAtReset := fun _ _ _ _ => ⟨9⟩
  timerRead := fun _ _ off => 0x40 + off.setWidth 8
  timerChain := fun _ _ => .done
  uartChain := fun _ _ => []
  voiceParam := fun _ _ => bank 0 20 0 0 0
  agentWord := fun _ _ => 0x8000

/-- A block with every level and register 0. -/
def blank : State :=
  { State.reset with
    c0out := false
    lines := Lines.afterReset { quiet with lineAtReset := fun _ _ _ => false } 0 []
    voiceGain := Vector.replicate 6 (.exact 0)
    voiceVolt := Vector.replicate 6 (Vector.replicate 8 (.exact 0)) }

/-- `blank` with one word to process. -/
def placed (w : StimulusWord) : State := placeNext w blank

/-! ## Vectors of 95_test_vectors.md, one operation each -/

/-- 2.2, row 0x00 and 0x23. -/
theorem test_ctrlWr_rising_bits :
    (controlWrite quiet 0x23 blank).trace =
      (Voice.all.map fun i => OutEvent.setOutputGain i 1) ++ [.line .gate0 true, .line .clk0 true] ∧
    (controlWrite quiet 0x23 blank).calArmed = true ∧
    (controlWrite quiet 0x23 blank).calTimer = .stopped := by decide +kernel

/-- 2.2, row 0x3F and 0x00. -/
theorem test_ctrlWr_falling_bits :
    (controlWrite quiet 0x00 { blank with ctrl := 0x3F, ff := true, nmiOut := true, calArmed := true }).trace =
      (Voice.all.map fun i => OutEvent.setOutputGain i 0) ++
        [.line .gate0 false, .line .clk0 true, .line .nmi false] := by decide +kernel

/-- 2.3. -/
theorem test_stateRd_table :
    counterState false false = 0x01 ∧ counterState true false = 0x00 ∧
    counterState false true = 0x03 ∧ counterState true true = 0x02 := by decide

/-- 2.4, row `CTRL = 0x0A`: the clear is not applied at a tick. -/
theorem test_calTick_ignores_the_clear :
    (calibrationTick quiet { blank with ctrl := 0x0A, calTimer := .running ⟨500⟩ }).ff = true ∧
    (calibrationTick quiet { blank with ctrl := 0x0A, calTimer := .running ⟨500⟩ }).trace = [.line .clk0 false] := by
  decide +kernel

/-- 2.4, last row. -/
theorem test_calTick_stopped : exec .calTick blank = .refused .calTickWhileStopped := rfl

/-- 2.5, first row. -/
theorem test_out0 :
    (out0Event quiet true blank).c0out = true ∧ (out0Event quiet true blank).trace = [.line .gate1 false] := by
  decide +kernel

/-- 20_memory.md R44: an OUT0 event raised while GATE1 is driven is processed first, so the outer one is recorded last. -/
theorem test_out0_chained :
    (out0Event { quiet with timerChain := fun _ _ => .out0 false .done (.out2 true .done) } true blank).c0out = true ∧
    (out0Event { quiet with timerChain := fun _ _ => .out0 false .done (.out2 true .done) } true blank).trace =
      [.line .gate1 false, .line .gate1 true, .line .irq true] := by decide +kernel

/-- The reader of a chain agrees: the outer OUT0 records last, both drive GATE1, then IRQ (20_memory.md R44). -/
theorem test_chain_reader :
    recordedOut0 (.out0 true (.out0 false .done .done) (.out2 true .done)) false = true ∧
    timerOutput (.out0 true (.out0 false .done .done) (.out2 true .done)) =
      [.line .gate1 false, .line .gate1 true, .line .irq true] ∧
    recordedUartIrq [.irq true, .txd false, .irq false] true = false ∧
    uartOutput [.irq true, .txd false, .irq false] = [.line .dataSent false] := by decide

/-- 2.5. -/
theorem test_out2 : (out2Event true blank).trace = [.line .irq true] := rfl

/-- 2.5. -/
theorem test_timerRd :
    (timerReadAccess quiet 1 blank).readData = 0x41 ∧ (timerReadAccess quiet 1 blank).trace = [.timerRead 1] := by
  decide +kernel

/-- 2.5. -/
theorem test_timerWr : (timerWriteAccess quiet 3 0x36 blank).trace = [.timerWrite 3 0x36] := rfl

/-- 2.6, rows 2 to 4: 10.0 is not below 10.0, and 0.9 is not above 0.9. -/
theorem test_recompute_thresholds :
    calibrationMaximum (bank 3 10 0 0 400) = ⟨0⟩ ∧ calibrationMaximum (bank 1 (1/2) (9/10) 900 300) = ⟨300⟩ ∧
    calibrationMaximum (bank 1 (1/2) (91/100) 900 300) = ⟨900⟩ := by decide +kernel

/-- 2.6, rows 6 and 7. -/
theorem test_recompute_stops :
    timerFor (calibrationMaximum (bank 2 5 0 0 (-5))) = .stopped ∧
    timerFor (calibrationMaximum (bank 2 5 (95/100) 0 800)) = .stopped := by decide +kernel

/-- 2.7, rows 1 and 3. -/
theorem test_dachWr :
    (writeDacHalf quiet 0xA 0xFF blank).dac = 0xFC0 ∧
    (writeDacHalf quiet 0xA 0x03 { blank with dac := 0x555 }).dac = 0x015 := by decide +kernel

/-- 2.7, rows 2 and 5. -/
theorem test_daclWr :
    (writeDacHalf quiet 0xB 0x07 { blank with dac := 0xFC0 }).dac = 0xFC1 ∧
    (writeDacHalf quiet 0xB 0x03 { blank with dac := 0xFFF }).dac = 0xFC0 := by decide +kernel

/-- 2.8, rows 3 and 4. -/
theorem test_dachWr_replays :
    (writeDacHalf quiet 0xA 0x80 { blank with regsel := 4, csmask := 0x21, calArmed := true }).trace =
      [.setVoltage 0 .mixerBalance 0, .setVoltage 5 .mixerBalance 0] ∧
    (writeDacHalf quiet 0xA 0x80 { blank with regsel := 4, csmask := 0x21, calArmed := true }).draws = 3 := by
  decide +kernel

/-- 2.8, last row. -/
theorem test_daclWr_all_enabled :
    (writeDacHalf quiet 0xB 0xFC { blank with csmask := 0x3F, calArmed := true }).trace = [] ∧
    (writeDacHalf quiet 0xB 0xFC { blank with csmask := 0x3F, calArmed := true }).draws = 1 := by decide +kernel

/-- 2.9, rows 4 and 9. -/
theorem test_regselWr :
    regselOperand 0xFB = 3 ∧ kindOf (regselOperand 0xFB) = .filterFrequency ∧
    kindOf (regselOperand 0x08) = .vcoFrequency := by decide

/-- 2.10, row 3. -/
theorem test_cselWr_edges :
    (writeChipSelect quiet (maskOperand 0x06) { blank with regsel := 1, dac := 2048, csmask := 0x01 }).trace =
      [.setVoltage 1 .finalGain 0, .setVoltage 2 .finalGain 0] := by decide +kernel

/-- 2.10, row 1: bits 7:6 are ignored. -/
theorem test_cselWr_upper_bits :
    (writeChipSelect quiet (maskOperand 0xC0) { blank with regsel := 1, dac := 2048 }).csmask = 0 ∧
    (writeChipSelect quiet (maskOperand 0xC0) { blank with regsel := 1, dac := 2048 }).trace = [] := by
  decide +kernel

/-- 2.11. -/
theorem test_voltage :
    voltage 1 = -3998046875 / 1000000000 ∧ voltage 512 = -3 ∧ voltage 4033 = 3876953125 / 1000000000 := by
  decide +kernel

/-- 2.12, rows 1 and 3. -/
theorem test_uartClk :
    (uartClock true { blank with uartIrq := true }).trace = [.line .clkmon false] ∧
    (uartClock true { blank with ctrl := 0x20, uartIrq := true }).trace = [.line .nmi true, .line .clkmon false] := by
  decide +kernel

/-- 2.12, row 6: a falling edge leaves the NMI. -/
theorem test_uartClk_falling :
    (uartClock false { blank with ctrl := 0x20, uartIrq := true }).nmiOut = false := by decide +kernel

/-- 2.12. -/
theorem test_uartIrq :
    (uartIrqEvent true blank).uartIrq = true ∧ (uartIrqEvent true blank).trace = [] ∧
    (uartIrqEvent true blank).nmiOut = false := ⟨rfl, rfl, rfl⟩

/-- 2.12. -/
theorem test_uartTxd : (uartTxdEvent true blank).trace = [.line .dataSent true] := rfl

/-- 2.12. -/
theorem test_serialIn : (emitToUart quiet false blank).trace = [.line .uartRxd false] := rfl

/-- 2.13: two reads are two draws. -/
theorem test_openRd :
    (openRead quiet 0x4 blank).readData = 0xF4 ∧ (openRead quiet 0xE (openRead quiet 0x4 blank)).draws = 3 := by
  decide +kernel

/-- 2.13. -/
theorem test_ignoreWr : exec (.ignoreWr9 0xFF) blank = .next blank ∧ exec (.ignoreWrF 0x00) blank = .next blank :=
  ⟨rfl, rfl⟩

/-- 2.14. -/
theorem test_reset :
    (resetBlock quiet { blank with ctrl := 0xFF, dac := 0xABC, calTimer := .running ⟨5⟩ }).trace = [] ∧
    (resetBlock quiet { blank with ctrl := 0xFF, dac := 0xABC, calTimer := .running ⟨5⟩ }).calTimer = .stopped ∧
    (resetBlock quiet { blank with ctrl := 0xFF, dac := 0xABC, calTimer := .running ⟨5⟩ }).c0out = true := by
  decide +kernel

/-- R68: the assembler's line. -/
theorem test_assembly : assembly (.timerWr 3 0x36) = "WR TIMER3, 0x36" ∧ assembly (.uartClk true) = "EV UART_CLK, 1" := by
  decide +kernel

/-- The host's placed word is the next step's stimulus (95_test_vectors.md 2.1, `0x8301`). -/
theorem test_withFetchWord : step (blank.withFetchWord 16 0x8301) = exec (.out2 true) blank := rfl

/-- The line NMI has a level of its own, open after reset while `NMI_OUT` is 0 (10_state.md R29, R30). -/
theorem test_reset_leaves_the_nmi_line_open :
    (resetBlock quiet blank).nmiOut = false ∧ (resetBlock quiet blank).lines.nmi = true := by decide +kernel

/-- 70_reset_and_hazards.md R143: 500 kHz is a period of 2 microseconds. -/
theorem test_uartClkPeriod : uartClkPeriod = 2 / 1000000 := by norm_num [uartClkPeriod, Config.uartClkHz]

/-- 70_reset_and_hazards.md R144: 250 Hz, wherever it is marked, expires 4 ms and 8 ms after the start (P5). -/
theorem test_expiryTime (f : RealMark) (h : f.hertz = 250) :
    IsExpiryTime 0 f 1 (4 / 1000) ∧ IsExpiryTime 0 f 2 (8 / 1000) := by
  constructor <;> norm_num [IsExpiryTime, h]

/-- The model's choice of log 26: with base 0xF8 and mirror bit 8, offset 7 answers at 0xFF and 0x1FF, offset 8 nowhere near. -/
theorem test_window_crossing_a_mirror_bit :
    windowOffset { base := 0xF8, mirror := 0x100 } .io 0xFF = some 7 ∧
    windowOffset { base := 0xF8, mirror := 0x100 } .io 0x1FF = some 7 ∧
    windowOffset { base := 0xF8, mirror := 0x100 } .io 0x100 = none ∧
    windowOffset { base := 0xF8, mirror := 0x100 } .io 0x000 = none := by decide

/-! ## Witnesses: what meets the statements' hypotheses -/

theorem witness_EncodeThenDecodeGivesTheStimulus :
    WellFormed (.openRd4 0x4) = true ∧ WellFormed (.openRd4 0x7) = true ∧ WellFormed (.openRdA 0xA) = true ∧
    WellFormed (.openRdA 0xB) = true ∧ WellFormed (.openRdC 0xC) = true ∧ WellFormed (.openRdC 0xF) = true ∧
    WellFormed (.ignoreWr4 0x4 0xFF) = true ∧ WellFormed (.ignoreWr4 0x7 0x00) = true := by decide

theorem witness_DecodedWordEncodesBack :
    decode 0x03FF = .ok (.timerRd 3) ∧ decode 0x8701 = .ok (.serialIn true) := by decide

theorem witness_DecodeFollowsTheOpcodeTable :
    decode 0x0BFF = .ok (.openRdA 0xB) ∧ inRow (.openRdA 0xA) 0x0BFF := by unfold inRow; decide

theorem witness_ReservedWordsAreRefused :
    (placed 0x2000).inbox = [0x2000] ∧
    ((0x2000 : StimulusWord).getLsbD 15 = false ∧ (0x2000 : StimulusWord).extractLsb' 13 2 ≠ 0) ∧
    ((0x1FFF : StimulusWord).getLsbD 15 = false ∧ (0x1FFF : StimulusWord).extractLsb' 13 2 = 0) ∧
    ((0x9000 : StimulusWord).getLsbD 15 = true ∧ (0x9000 : StimulusWord).extractLsb' 12 3 ≠ 0) ∧
    ((0x8002 : StimulusWord).getLsbD 15 = true ∧ (0x8002 : StimulusWord).extractLsb' 1 7 ≠ 0) ∧
    ((0x8800 : StimulusWord).extractLsb' 12 3 = 0 ∧ (0x8800 : StimulusWord).extractLsb' 1 7 = 0 ∧
      8 ≤ ((0x8800 : StimulusWord).extractLsb' 8 4).toNat) ∧
    (((0x8101 : StimulusWord).extractLsb' 8 4).toNat < 2 ∧ (0x8101 : StimulusWord).getLsbD 0 = true) ∧
    (((0x8100 : StimulusWord).extractLsb' 8 4).toNat < 2 ∧ (0x8100 : StimulusWord).getLsbD 0 = false) ∧
    (2 ≤ ((0x8200 : StimulusWord).extractLsb' 8 4).toNat ∧ ((0x8701 : StimulusWord).extractLsb' 8 4).toNat < 8) := by
  decide

theorem witness_StepRunsTheDecodedStimulus :
    (placed 0x1821).inbox = 0x1821 :: [] ∧ decode 0x1821 = .ok (.ctrlWr 0x21) := by decide

theorem witness_EmptyInboxStepIsAnAgentsChoice : blank.inbox = [] := rfl

theorem blank_inv : StateInv blank := by
  constructor <;> simp [blank, State.reset, gate0Bit]

theorem witness_StepKeepsTheInvariant :
    StateInv (placed 0x8501) ∧ step (placed 0x8501) = .next { blank with uartIrq := true } :=
  ⟨⟨blank_inv.armed, blank_inv.idle, blank_inv.positive, blank_inv.phase⟩, rfl⟩

theorem witness_ReachableStatesMeetTheInvariant : Reachable (supply 0x8501 State.reset) :=
  .supplied _ _ .reset

/-- The running timer's premise of the second half is met by an armed block. -/
theorem witness_armed_running :
    StateInv { blank with ctrl := 0x02, calArmed := true, calTimer := .running ⟨500⟩ } := by
  constructor <;> simp [blank, State.reset, gate0Bit, hertz_pos]

/-- The edges of a control write's bits 0, 1 and 5, and the values of bits 4 and 2, that the statements tell apart. -/
theorem witness_ControlWrite :
    (blank.ctrl.getLsbD 0 = (0x02 : Byte).getLsbD 0 ∧ blank.ctrl.getLsbD 0 ≠ (0x01 : Byte).getLsbD 0) ∧
    (blank.ctrl.getLsbD 1 = (0x01 : Byte).getLsbD 1) ∧
    (blank.ctrl.getLsbD 1 = false ∧ (0x02 : Byte).getLsbD 1 = true ∧ blank.calArmed = false) ∧
    ({ blank with calArmed := true }.ctrl.getLsbD 1 = false ∧ { blank with calArmed := true }.calArmed = true) ∧
    ({ blank with ctrl := 0x02 }.ctrl.getLsbD 1 = true ∧ (0x00 : Byte).getLsbD 1 = false) ∧
    ((0x04 : Byte).getLsbD 4 = false) ∧ ((0x10 : Byte).getLsbD 4 = true ∧ (0x10 : Byte).getLsbD 2 = false) ∧
    ((0x14 : Byte).getLsbD 4 = true ∧ (0x14 : Byte).getLsbD 2 = true) ∧
    ({ blank with ctrl := 0x34 }.ctrl.getLsbD 5 = true ∧ (0x14 : Byte).getLsbD 5 = false) ∧
    (blank.ctrl.getLsbD 5 = false ∨ (0x34 : Byte).getLsbD 5 = true) := by decide

/-- The premise about GATE1 in `ControlWriteStoresAndKeepsTheRest`, with a timer that chains nothing. -/
theorem witness_control_write_without_out0 :
    lineLevels .gate1 (newOutput blank (controlWrite quiet 0x00 blank)) = [] := by decide +kernel

theorem witness_CalTickSamplesControlBit3 :
    { blank with calTimer := .running ⟨1/1000⟩ }.calTimer = .running ⟨1/1000⟩ := rfl

theorem witness_CalTickWhileStoppedIsRefused : blank.calTimer = .stopped := rfl

/-- A gain just below 10.0 and one at it; a resonance at 0.9, one above it and one that is no number. -/
theorem witness_RecomputeTakesTheHighestQualifyingFrequency :
    Contributes (voice (-1) (9/10) 900 300) ⟨300⟩ ∧ Contributes (voice (99/10) (91/100) 900 300) ⟨900⟩ ∧
    ¬ Contributes (voice 10 0 0 400) ⟨400⟩ ∧ 0 < (calibrationMaximum (bank 1 (1/2) (9/10) 900 300)).hertz := by
  have below : ∀ q : Rat, q < 10 → ∃ g, ReadsReal .finalGain (.num ⟨q⟩) g ∧ g < 10 := fun q h =>
    ⟨_, ⟨_, rfl, rfl⟩, by simpa [Config.anchor, Config.gainThreshold] using (realAt_lt_anchor 10 ⟨q⟩).2 h⟩
  have above : ∀ q : Rat, (∃ g, ReadsReal .filterResonance (.num ⟨q⟩) g ∧ 9 / 10 < g) ↔ 9 / 10 < q := fun q => by
    simpa [ReadsReal, Config.anchor, Config.resonanceThreshold] using anchor_lt_realAt (9 / 10) ⟨q⟩
  refine ⟨⟨below _ (by norm_num), .inr ⟨fun h => ?_, rfl⟩⟩,
    ⟨below _ (by norm_num), .inl ⟨(above _).2 (by norm_num), rfl⟩⟩, ?_, ?_⟩
  · exact absurd ((above _).1 h) (lt_irrefl _)
  · rintro ⟨⟨g, ⟨m, hm, rfl⟩, hg⟩, -⟩
    cases hm
    have := (realAt_lt_anchor 10 ⟨10⟩).1 (by simpa [Config.anchor, Config.gainThreshold] using hg)
    exact absurd this (lt_irrefl _)
  · rw [hertz_pos]; decide +kernel

theorem witness_RecomputeMaximum :
    calibrationMaximum (quiet.voiceParam blank.draws blank.trace) = ⟨0⟩ ∧ (⟨0⟩ : RealMark).hertz ≤ 0 ∧
    calibrationMaximum ({ quiet with voiceParam := fun _ _ => bank 5 (-1) 0 0 (1/1000) }.voiceParam 1 []) = ⟨1/1000⟩ ∧
    0 < (⟨1/1000⟩ : RealMark).hertz := by
  refine ⟨by decide +kernel, ?_, by decide +kernel, ?_⟩
  · rw [← not_lt, hertz_pos]; decide
  · rw [hertz_pos]; norm_num

theorem witness_DacHalfWrite :
    (0x80 : Byte).extractLsb' 2 6 = (0x83 : Byte).extractLsb' 2 6 ∧ (0x80 : Byte) ≠ 0x83 := by decide

theorem witness_DacWriteReplaysToTheEnabledVoices :
    (Instr.daclWr 0xFC = .dachWr 0xFC ∨ Instr.daclWr 0xFC = .daclWr 0xFC) ∧
    { blank with csmask := 0x1F }.csmask ≠ 0x3F ∧ { blank with csmask := 0x3F }.csmask = 0x3F := by decide

theorem witness_DacWriteKeepsTheRest :
    blank.calArmed = false ∧
    ({ blank with calArmed := true, csmask := 0x21 }.calArmed = true ∧
      { blank with calArmed := true, csmask := 0x21 }.csmask ≠ 0x3F) := by decide

theorem witness_ChipSelectKeepsTheRest :
    blank.calArmed = false ∧ { blank with calArmed := true }.calArmed = true := by decide

theorem witness_ChipSelectTwiceAppliesOnce :
    exec (.cselWr 0x05) blank = .next (writeChipSelect Config.env 0x05 blank) ∧
    exec (.cselWr 0x05) (writeChipSelect Config.env 0x05 blank) =
      .next (writeChipSelect Config.env 0x05 (writeChipSelect Config.env 0x05 blank)) := ⟨rfl, rfl⟩

theorem witness_VoltageRisesBySteps : (2047 : BitVec 12) < 2048 ∧ (4094 : BitVec 12) ≠ 4095 := by decide

theorem witness_WindowDecodesItsSixteenOffsets :
    (0xE : Nat) < 0xF ∧ (0xF : Nat) + 15 < 0x1F ∧ (0xF + (0xF#4).toNat) &&& 0 = 0 ∧
    (0x10 + (0xF#4).toNat) &&& 0x100 = 0 ∧ (0xF8 + (0x7#4).toNat) &&& 0x100 = 0 ∧ (0xF8 + (0x8#4).toNat) &&& 0x100 ≠ 0 ∧
    0x20 &&& 0x100 = 0 ∧
    AddressSpace.io ≠ ({ base := 0xF, space := .memory } : Window).space ∧
    AddressSpace.memory ≠ ({ base := 0xF, mirror := 0x100 } : Window).space ∧
    (∀ i, (0x100 : Nat).testBit i = false → (0x01F : Nat).testBit i = (0x11F : Nat).testBit i) ∧
    windowOffset { base := 0x10, mirror := 0x100 } .io 0x11F = some 0xF := by
  refine ⟨by decide, by decide, rfl, rfl, rfl, by decide, rfl, by decide, by decide, fun i h => ?_, by decide⟩
  have : (0x11F : Nat) = 0x01F ||| 0x100 := rfl
  rw [this, Nat.testBit_lor, h, Bool.or_false]

/-- An access that reaches the last offset of a window and one that misses it, with no stimulus waiting. -/
theorem witness_WindowDecodesItsSixteenOffsets_accesses :
    windowOffset { base := 0x10 } .io 0x1F = some 0xF ∧ windowOffset { base := 0x10 } .io 0x20 = none ∧ blank.inbox = [] :=
  ⟨by decide, by decide, rfl⟩

/-- A pulse with a falling clock edge, a control write and a serial output between its rise and its fall, and an OUT2 after it. -/
theorem witness_UartInterruptIsStored :
    Instr.uartClk true ∉ [Instr.uartClk false, .ctrlWr 0x20, .uartTxd true] ++ [.out2 true] ∧
    (∀ v, Instr.uartIrq v ∉ [Instr.out2 true] ∧ Instr.serialIn v ∉ [Instr.out2 true]) ∧
    ∃ t, execAll (.uartIrq true :: ([.uartClk false, .ctrlWr 0x20, .uartTxd true] ++ .uartIrq false :: [.out2 true])) blank =
      .next t :=
  ⟨by decide, by decide, _, rfl⟩

/-! ### Whole-machine statements -/

/-- A serial-link event, a reset and an unmapped write that run. -/
theorem witness_NmiStateMachine :
    (exec (.uartClk true) { blank with ctrl := 0x20, uartIrq := true } =
      .next (uartClock true { blank with ctrl := 0x20, uartIrq := true })) ∧
    exec (.ctrlWr 0x14) { blank with ctrl := 0x34 } =
      .next (controlWrite Config.env 0x14 { blank with ctrl := 0x34 }) ∧
    exec .reset blank = .next (resetBlock Config.env blank) ∧ exec (.ignoreWrD 0x00) blank = .next blank :=
  ⟨rfl, rfl, rfl, rfl⟩

theorem witness_FlipFlopWriters :
    exec .calTick { blank with ctrl := 0x08, calTimer := .running ⟨500⟩ } =
      .next (calibrationTick Config.env { blank with ctrl := 0x08, calTimer := .running ⟨500⟩ }) ∧
    exec (.ctrlWr 0x10) blank = .next (controlWrite Config.env 0x10 blank) ∧
    exec .reset blank = .next (resetBlock Config.env blank) ∧ exec (.out2 true) blank = .next (out2Event true blank) :=
  ⟨rfl, rfl, rfl, rfl⟩

theorem witness_RegisterWriters :
    exec (.uartIrq true) blank = .next { blank with uartIrq := true } ∧
    { blank with uartIrq := true }.uartIrq ≠ blank.uartIrq := ⟨rfl, by decide⟩

/-- An arm bit that changes: the rising edge of bit 1. -/
theorem witness_RegisterWriters_arms :
    exec (.ctrlWr 0x02) blank = .next (controlWrite Config.env 0x02 blank) ∧
    (controlWrite Config.env 0x02 blank).calArmed ≠ blank.calArmed := by
  obtain ⟨g, a, ct, ph, he, -, -, -, -, -, h⟩ := controlWrite_spec Config.env 0x02 blank
  refine ⟨rfl, ?_⟩
  rw [he]
  have ha := (h (by decide) (by decide) rfl).1
  rw [ha]
  show (true : Bool) ≠ false
  decide

theorem witness_CounterOutChangesOnlyByOut0 :
    exec (.out2 true) blank = .next (out2Event true blank) ∧
    lineLevels .gate1 (newOutput blank (out2Event true blank)) = [] := ⟨rfl, rfl⟩

theorem witness_VoiceWriters_voltages :
    exec (.cselWr 0x01) blank = .next (writeChipSelect Config.env 0x01 blank) ∧
    voltageCalls (newOutput blank (writeChipSelect Config.env 0x01 blank)) ≠ [] := by
  refine ⟨rfl, ?_⟩
  decide +kernel

theorem witness_VoiceWriters_gains :
    exec (.ctrlWr 0x01) blank = .next (controlWrite Config.env 0x01 blank) ∧
    gainCalls (newOutput blank (controlWrite Config.env 0x01 blank)) ≠ [] := by
  obtain ⟨g, a, ct, ph, he, -⟩ := controlWrite_spec Config.env 0x01 blank
  refine ⟨rfl, ?_⟩
  rw [newOutput_of_trace (s := blank) (by rw [he])]
  have : gainCalls (gainEvents (edges blank.ctrl 0x01) 0x01) ≠ [] := by decide +kernel
  simp only [gainCalls_append, ne_eq, List.append_eq_nil_iff]
  exact fun h => this h.1.1.1.1.1

theorem witness_VoiceWriters_neither :
    voltageCalls (newOutput blank (out2Event true blank)) = [] ∧
    gainCalls (newOutput blank (out2Event true blank)) = [] := ⟨rfl, rfl⟩

theorem witness_ClockLineFollowsTheFlipFlop :
    exec (.ctrlWr 0x00) blank = .next (controlWrite Config.env 0x00 blank) ∧
    lineLevels .clk0 (newOutput blank (controlWrite Config.env 0x00 blank)) ≠ [] := by
  obtain ⟨g, a, ct, ph, he, -⟩ := controlWrite_spec Config.env 0x00 blank
  refine ⟨rfl, ?_⟩
  rw [newOutput_of_trace (s := blank) (by rw [he])]
  have : lineLevels .clk0 (forcedEvents 0x00) ≠ [] := by decide +kernel
  simp only [lineLevels_append, ne_eq, List.append_eq_nil_iff]
  exact fun h => this h.1.1.2

/-- A block whose CLK0 line is NOT flip-flop already. -/
theorem witness_ClockLineFollowsTheFlipFlop_kept :
    { blank with ff := true }.lines.clk0 = !{ blank with ff := true }.ff ∧
    exec (.out2 true) { blank with ff := true } = .next (out2Event true { blank with ff := true }) := ⟨rfl, rfl⟩

theorem witness_LineLevelsAreTheLastEmits :
    exec (.uartTxd true) blank = .next (uartTxdEvent true blank) ∧ Instr.uartTxd true ≠ .reset := ⟨rfl, by decide⟩

theorem witness_SaveRestoreRoundTrip :
    StateInv blank ∧ { blank.save with calArmed := true }.calArmed ≠ { blank.save with calArmed := true }.ctrl.getLsbD 1 ∧
    ({ blank.save with calTimer := .running ⟨1⟩ }.calArmed = false ∧
      { blank.save with calTimer := .running ⟨1⟩ }.calTimer ≠ .stopped) ∧
    (⟨0⟩ : RealMark).hertz ≤ 0 ∧ ∃ t, State.restore blank.save blank = .next t := by
  refine ⟨blank_inv, by decide, by decide +kernel, ?_, _, rfl⟩
  rw [← not_lt, hertz_pos]; decide

/-- A gated clock edge, which emits on NMI and moves it, and a block whose NMI line is `NMI_OUT` already. -/
theorem witness_NmiLineFollowsNmiOut :
    exec (.uartClk true) { blank with ctrl := 0x20, uartIrq := true } =
      .next (uartClock true { blank with ctrl := 0x20, uartIrq := true }) ∧
    lineLevels .nmi (newOutput { blank with ctrl := 0x20, uartIrq := true }
      (uartClock true { blank with ctrl := 0x20, uartIrq := true })) ≠ [] ∧
    (uartClock true { blank with ctrl := 0x20, uartIrq := true }).nmiOut ≠ blank.nmiOut ∧
    blank.lines.nmi = blank.nmiOut := ⟨rfl, by decide +kernel, by decide +kernel, rfl⟩

/-! ### A fair run -/

/-- The clock's n-th level. -/
def level (n : Nat) : Bool := n % 2 == 0

/-- A block with the NMI enabled and the UART's interrupt output high, clocked for ever. -/
def clocked : Nat → State
  | 0 => { blank with ctrl := 0x20, uartIrq := true }
  | n + 1 => uartClock (level n) (clocked n)

theorem uartClock_keeps (l : Bool) (s : State) :
    (uartClock l s).uartIrq = s.uartIrq ∧ (uartClock l s).ctrl = s.ctrl ∧ (uartClock l s).calTimer = s.calTimer ∧
      (uartClock l s).extClk = some l := by
  unfold uartClock; split <;> exact ⟨rfl, rfl, rfl, rfl⟩

theorem clocked_enabled (n : Nat) :
    (clocked n).uartIrq = true ∧ (clocked n).ctrl = 0x20 ∧ (clocked n).calTimer = .stopped := by
  induction n with
  | zero => exact ⟨rfl, rfl, rfl⟩
  | succ n ih =>
    obtain ⟨h1, h2, h3, -⟩ := uartClock_keeps (level n) (clocked n)
    exact ⟨h1.trans ih.1, h2.trans ih.2.1, h3.trans ih.2.2⟩

theorem clocked_alternates (n : Nat) : (clocked n).extClk ≠ some (level n) := by
  cases n with
  | zero => simp [clocked, blank, State.reset]
  | succ n =>
    rw [clocked, (uartClock_keeps (level n) (clocked n)).2.2.2]
    simp only [ne_eq, Option.some.injEq, level]
    rcases Nat.mod_two_eq_zero_or_one n with h | h <;> simp [Nat.add_mod, h]

theorem witness_NmiEventuallyFollowsTheUart :
    IsRun clocked (fun n => .uartClk (level n)) ∧ Fair clocked (fun n => .uartClk (level n)) ∧
    ∀ m, 0 ≤ m → (clocked m).uartIrq = true ∧ (clocked m).ctrl.getLsbD 5 = true := by
  refine ⟨fun n => ⟨by simpa [admissible] using clocked_alternates n, rfl⟩, ⟨fun n f h => ?_, fun k => ⟨k, le_refl k, _, rfl⟩⟩,
    fun m _ => ⟨(clocked_enabled m).1, by rw [(clocked_enabled m).2.1]; rfl⟩⟩
  have := h n (le_refl n)
  rw [(clocked_enabled n).2.2] at this
  cases this

end Sys2Proof.Tests
end

section
/-! PROOF. What the latch holds after a write of its low half (30_encoding.md R61), and the table of the register select (R63). -/

namespace Sys2Proof.Machine

/-! ## A replay reads the latch and never writes it -/

@[simp] theorem replay_dac (e : Env) (s : State) : (replay e s).dac = s.dac := by
  by_cases h : s.csmask = 0b111111#6
  · rw [replay_all e s h]
  · obtain ⟨ct, ph, n, hreplay, -⟩ := replay_some e s h
    rw [hreplay, applyVoltage_eq]

/-! ## The two halves after `DAC[5:0] <- data[7:2]` -/

@[simp] theorem withLowHalf_low (dac : BitVec 12) (data : Byte) :
    (withLowHalf dac data).extractLsb' 0 6 = dacHalf data :=
  BitVec.extractLsb'_append_eq_right

@[simp] theorem withLowHalf_high (dac : BitVec 12) (data : Byte) :
    (withLowHalf dac data).extractLsb' 6 6 = dac.extractLsb' 6 6 :=
  BitVec.extractLsb'_append_eq_left

/-- The mask 0xFC0 has exactly the bits of the high half. -/
theorem highHalfMask_getLsbD {i : Nat} (hi : i < 12) : (0xFC0#12).getLsbD i = decide (6 ≤ i) := by
  have bits : ∀ j : Fin 12, (0xFC0#12).getLsbD j.val = decide (6 ≤ j.val) := by decide
  exact bits ⟨i, hi⟩

/-- R61's formula, bit by bit: below bit 6 the mask clears the latch, and from bit 6 on the shifted byte has run out. -/
theorem withLowHalf_eq_or (dac : BitVec 12) (data : Byte) :
    withLowHalf dac data = (dac &&& 0xFC0#12) ||| (data.setWidth 12 >>> 2) := by
  apply BitVec.eq_of_getLsbD_eq
  intro i hi
  rw [BitVec.getLsbD_or, BitVec.getLsbD_and, highHalfMask_getLsbD hi]
  simp only [withLowHalf, dacHalf, BitVec.getLsbD_append, BitVec.getLsbD_extractLsb', BitVec.getLsbD_ushiftRight,
    BitVec.getLsbD_setWidth]
  by_cases hlow : i < 6
  · simp [hlow, show ¬ 6 ≤ i by omega, show 2 + i < 12 by omega]
  · have hdata : data.getLsbD (2 + i) = false := BitVec.getLsbD_of_ge _ _ (by omega)
    simp [hlow, hdata, show 6 ≤ i by omega, show i - 6 < 6 by omega, show 6 + (i - 6) = i by omega]

/-! ## `DACL_WR` -/

/-- A low-half write replays the latch with its new low half (R94, R95). -/
theorem exec_daclWr (data : Byte) (s : State) :
    exec (.daclWr data) s = .next (replay Config.env { s with dac := withLowHalf s.dac data }) := rfl

/-- `data[1:0]` reaches nothing of the write's outcome. -/
theorem exec_daclWr_congr {d d' : Byte} (h : dacHalf d = dacHalf d') (s : State) :
    exec (.daclWr d) s = exec (.daclWr d') s := by
  rw [exec_daclWr, exec_daclWr, withLowHalf, withLowHalf, h]

/-- Settles O30: a replay keeps the latch, so the outcome's latch is the one with the new low half. -/
theorem dacLowHalfWrite : Obligations.DacLowHalfWrite := by
  intro d d' s
  refine ⟨⟨_, exec_daclWr d s, ?_, ?_, ?_⟩, fun h => exec_daclWr_congr h s⟩
  · exact (replay_dac _ _).trans (withLowHalf_eq_or s.dac d)
  · rw [replay_dac, withLowHalf_low, dacHalf]
  · rw [replay_dac, withLowHalf_high]

/-! ## The register select's table -/

/-- Settles O35, row by row of R63's table. -/
theorem registerSelectNamesTheKind : Obligations.RegisterSelectNamesTheKind :=
  ⟨rfl, rfl, rfl, rfl, rfl, rfl, rfl, rfl⟩

end Sys2Proof.Machine
end

section
/-! PROOF. What a control write does with bit 1, with bits 4 and 2, and with the fall of bit 5 (40_counter_gate.md R74 to R76). Each
statement needs the levels the write emits on one line, that line's level afterwards, and at most one register. -/

namespace Sys2Proof.Machine

theorem exec_ctrlWr (data : Byte) (s : State) : exec (.ctrlWr data) s = .next (controlWrite Config.env data s) := rfl

/-! ## The lines and registers after a control write -/

theorem controlWrite_gate0 (e : Env) (data : Byte) (s : State) :
    (controlWrite e data s).lines.gate0 = data.getLsbD 1 := by
  obtain ⟨g, a, ct, ph, he, -⟩ := controlWrite_spec e data s
  rw [he, gate0Bit]

theorem controlWrite_clk0 (e : Env) (data : Byte) (s : State) :
    (controlWrite e data s).lines.clk0 = lastLevel .clk0 (forcedEvents data) s.lines.clk0 := by
  obtain ⟨g, a, ct, ph, he, -⟩ := controlWrite_spec e data s
  rw [he]

theorem controlWrite_ff (e : Env) (data : Byte) (s : State) :
    (controlWrite e data s).ff = forcedFlipFlop data s.ff := by
  obtain ⟨g, a, ct, ph, he, -⟩ := controlWrite_spec e data s
  rw [he]

theorem controlWrite_nmi (e : Env) (data : Byte) (s : State) :
    (controlWrite e data s).lines.nmi = lastLevel .nmi (nmiClearEvents (edges s.ctrl data) data) s.lines.nmi := by
  obtain ⟨g, a, ct, ph, he, -⟩ := controlWrite_spec e data s
  rw [he]

theorem controlWrite_nmiOut (e : Env) (data : Byte) (s : State) :
    (controlWrite e data s).nmiOut = if nmiEn (edges s.ctrl data) && !nmiEn data then false else s.nmiOut := by
  obtain ⟨g, a, ct, ph, he, -⟩ := controlWrite_spec e data s
  rw [he]

/-! ## The levels a control write emits, line by line -/

/-- The chained timer events are heard on GATE1 and IRQ only, so on every other line a control write emits what its steps 3, 4 and 5
emit. -/
theorem lineLevels_controlWrite {ln : Line} (h1 : ln ≠ .gate1) (h2 : ln ≠ .irq) (e : Env) (data : Byte) (s : State) :
    lineLevels ln (newOutput s (controlWrite e data s)) =
      lineLevels ln [.line .gate0 (data.getLsbD 1)] ++ lineLevels ln (forcedEvents data) ++
        lineLevels ln (nmiClearEvents (edges s.ctrl data) data) := by
  obtain ⟨g, a, ct, ph, he, -⟩ := controlWrite_spec e data s
  have chainLevels (ch : TimerChain) : lineLevels ln (timerOutput ch) = [] :=
    lineLevels_of_timerOutput (timerRaised_chain ch s.c0out).1 h1 h2
  rw [newOutput_of_trace (s := s) (by rw [he])]
  simp only [lineLevels_append, lineLevels_gainEvents, chainLevels, gate0Bit, List.nil_append, List.append_nil]

theorem lineLevels_gate0_controlWrite (e : Env) (data : Byte) (s : State) :
    lineLevels .gate0 (newOutput s (controlWrite e data s)) = [data.getLsbD 1] := by
  rw [lineLevels_controlWrite (by decide) (by decide), lineLevels_forcedEvents data (by decide),
    lineLevels_nmiClearEvents _ data (by decide)]
  rfl

theorem lineLevels_clk0_controlWrite (e : Env) (data : Byte) (s : State) :
    lineLevels .clk0 (newOutput s (controlWrite e data s)) = lineLevels .clk0 (forcedEvents data) := by
  rw [lineLevels_controlWrite (by decide) (by decide), lineLevels_nmiClearEvents _ data (by decide), List.append_nil]
  rfl

theorem lineLevels_nmi_controlWrite (e : Env) (data : Byte) (s : State) :
    lineLevels .nmi (newOutput s (controlWrite e data s)) =
      lineLevels .nmi (nmiClearEvents (edges s.ctrl data) data) := by
  rw [lineLevels_controlWrite (by decide) (by decide), lineLevels_forcedEvents data (by decide), List.append_nil]
  rfl

/-! ## The rows of R75's table -/

section
variable {data : Byte}

theorem forcedEvents_of_clear (hclear : data.getLsbD 4 = false) : forcedEvents data = [.line .clk0 true] :=
  if_pos hclear

theorem forcedFlipFlop_of_clear (hclear : data.getLsbD 4 = false) (ff : Bool) : forcedFlipFlop data ff = false :=
  if_pos hclear

theorem forcedEvents_of_preset (hclear : data.getLsbD 4 = true) (hpreset : data.getLsbD 2 = false) :
    forcedEvents data = [.line .clk0 false] := by
  rw [forcedEvents, ffClearN, ffPresetN, hclear, hpreset]
  rfl

theorem forcedFlipFlop_of_preset (hclear : data.getLsbD 4 = true) (hpreset : data.getLsbD 2 = false) (ff : Bool) :
    forcedFlipFlop data ff = true := by
  rw [forcedFlipFlop, ffClearN, ffPresetN, hclear, hpreset]
  rfl

theorem forcedEvents_of_neither (hclear : data.getLsbD 4 = true) (hpreset : data.getLsbD 2 = true) :
    forcedEvents data = [] := by
  rw [forcedEvents, ffClearN, ffPresetN, hclear, hpreset]
  rfl

theorem forcedFlipFlop_of_neither (hclear : data.getLsbD 4 = true) (hpreset : data.getLsbD 2 = true) (ff : Bool) :
    forcedFlipFlop data ff = ff := by
  rw [forcedFlipFlop, ffClearN, ffPresetN, hclear, hpreset]
  rfl

end

/-! ## The fall of bit 5 (R76) -/

/-- Bit 5 of the edge set, where the new bit is 0, marks the fall (00_scope.md R10). -/
theorem nmiEn_falls_iff (old data : Byte) :
    (nmiEn (edges old data) && !nmiEn data) = true ↔ old.getLsbD 5 = true ∧ data.getLsbD 5 = false := by
  rw [nmiEn_edges, nmiEn]
  cases old.getLsbD 5 <;> cases data.getLsbD 5 <;> decide

theorem nmiClearEvents_of_fall {old data : Byte} (h : old.getLsbD 5 = true ∧ data.getLsbD 5 = false) :
    nmiClearEvents (edges old data) data = [.line .nmi false] :=
  if_pos ((nmiEn_falls_iff old data).2 h)

theorem nmiClearEvents_of_not_fall {old data : Byte} (h : ¬ (old.getLsbD 5 = true ∧ data.getLsbD 5 = false)) :
    nmiClearEvents (edges old data) data = [] :=
  if_neg (mt (nmiEn_falls_iff old data).1 h)

/-! ## The statements -/

/-- Settles O18: step 3 alone drives GATE0, and it always does. -/
theorem controlWriteDrivesGate0 : Obligations.ControlWriteDrivesGate0 := fun d s =>
  ⟨_, exec_ctrlWr d s, lineLevels_gate0_controlWrite _ d s, controlWrite_gate0 _ d s⟩

/-- Settles O19, a row of R75's table at a time: step 4 alone drives CLK0. -/
theorem controlWriteForcesTheFlipFlop : Obligations.ControlWriteForcesTheFlipFlop := by
  intro d s
  refine ⟨_, exec_ctrlWr d s, ?_⟩
  rw [controlWrite_ff, lineLevels_clk0_controlWrite, controlWrite_clk0]
  refine ⟨fun hclear => ?_, fun hclear hpreset => ?_, fun hclear hpreset => ?_⟩
  · rw [forcedFlipFlop_of_clear hclear, forcedEvents_of_clear hclear]
    exact ⟨rfl, rfl, rfl⟩
  · rw [forcedFlipFlop_of_preset hclear hpreset, forcedEvents_of_preset hclear hpreset]
    exact ⟨rfl, rfl, rfl⟩
  · rw [forcedFlipFlop_of_neither hclear hpreset, forcedEvents_of_neither hclear hpreset]
    exact ⟨rfl, rfl, rfl⟩

/-- Settles O20: step 5 alone drives NMI, and only at a fall of bit 5. -/
theorem controlWriteClearsTheNmi : Obligations.ControlWriteClearsTheNmi := by
  intro d s
  refine ⟨_, exec_ctrlWr d s, ?_⟩
  rw [controlWrite_nmiOut, lineLevels_nmi_controlWrite, controlWrite_nmi]
  refine ⟨fun hold hnew => ?_, fun h => ?_⟩
  · rw [if_pos ((nmiEn_falls_iff _ _).2 ⟨hold, hnew⟩), nmiClearEvents_of_fall ⟨hold, hnew⟩]
    exact ⟨rfl, rfl, rfl⟩
  · have noFall : ¬ (s.ctrl.getLsbD 5 = true ∧ d.getLsbD 5 = false) := by
      rintro ⟨hold, hnew⟩
      rw [hold, hnew] at h
      exact absurd h (by decide)
    rw [if_neg (mt (nmiEn_falls_iff _ _).1 noFall), nmiClearEvents_of_not_fall noFall]
    exact ⟨rfl, rfl, rfl⟩

end Sys2Proof.Machine
end

section
/-! PROOF. The word and the operand of the register-select write (30_encoding.md R55, R62), and the exact voltage of a latch value
(41_dac_chipselect.md R100). -/

namespace Sys2Proof

/-! ## The word of a bus write (R55) -/

/-- The write's fields stand where R55 puts them: bit 15 is 0, bits 14:13 are 0, W is 1, then the offset and the data. -/
theorem decode_busWord_write (off : BitVec 4) (data : Byte) :
    decode (busWord true off data) = .ok (decodeWrite off data) := by
  have format : (busWord true off data).getLsbD 15 = false := by
    simp only [busWord, BitVec.getLsbD_append]
    rfl
  have reserved : (busWord true off data).extractLsb' 13 2 = 0#2 := by
    rw [busWord, BitVec.extractLsb'_append_eq_of_le (by decide), BitVec.extractLsb'_append_eq_of_le (by decide)]
    rfl
  have write : (busWord true off data).getLsbD 12 = true := by
    simp only [busWord, BitVec.getLsbD_append]
    rfl
  have offset : (busWord true off data).extractLsb' 8 4 = off := by
    rw [busWord, BitVec.extractLsb'_append_eq_of_le (by decide)]
    exact BitVec.extractLsb'_append_eq_right
  have byte : (busWord true off data).extractLsb' 0 8 = data := BitVec.extractLsb'_append_eq_right
  simp only [decode, decodeBus, format, reserved, write, offset, byte, ne_eq, not_true_eq_false, Bool.false_eq_true, if_true,
    if_false]

/-- The head byte 0x1C is R55's `0`, `00`, W = 1 and the offset 0xC (R58). -/
theorem regselHead_append (data : Byte) : 0x1C#8 ++ data = busWord true 0xC data := rfl

end Sys2Proof

namespace Sys2Proof.Machine

/-! ## `REGSEL_WR` -/

/-- R62's mask keeps each of the three bits the register takes. -/
theorem regselOperand_eq_and (data : Byte) : regselOperand data = (data &&& 0b111).setWidth 3 := by
  have kept : ∀ i : Fin 3, (0b111 : Byte).getLsbD i.val = true := by decide
  apply BitVec.eq_of_getLsbD_eq
  intro i hi
  simp only [regselOperand, BitVec.getLsbD_extractLsb', BitVec.getLsbD_setWidth, BitVec.getLsbD_and, Nat.zero_add,
    kept ⟨i, hi⟩, Bool.and_true]

theorem exec_regselWr (data : Byte) (s : State) :
    exec (.regselWr data) s = .next { s with regsel := regselOperand data } := rfl

/-- Settles O34: the word is a bus write at offset 0xC, and R62's operand is all that the write stores. -/
theorem registerSelectIsAPlainStore : Obligations.RegisterSelectIsAPlainStore := by
  intro d s
  refine ⟨?_, ?_⟩
  · rw [regselHead_append, decode_busWord_write]
    rfl
  · rw [exec_regselWr, regselOperand_eq_and]

/-! ## The voltage of a latch value -/

/-- R100's quotient: one step of the latch, 8/4096 V, is 1/512 V. -/
theorem voltage_eq_div (d : BitVec 12) : voltage d = (d.toNat : Rat) / 512 - 4 := by
  have step : (8 / 4096 : Rat) = 1 / 512 := by norm_num
  rw [voltage, step, mul_one_div]

/-- Settles O39: R100's product is the conversion as modelled, and the quotient is the same rational. -/
theorem voltageConversionIsExact : Obligations.VoltageConversionIsExact := fun d => ⟨rfl, voltage_eq_div d⟩

end Sys2Proof.Machine
end

section
/-! PROOF. The serial link (42_serial_link.md R109, R112, R113): the clock monitor, the transmit data, and the UART's interrupt level,
which only a gated rising clock edge carries to the NMI. -/

namespace Sys2Proof.Machine

/-! ## The stimuli of the serial link -/

theorem exec_uartClk (l : Bool) (s : State) : exec (.uartClk l) s = .next (uartClock l s) := rfl

theorem uartClock_trace (l : Bool) (s : State) :
    (uartClock l s).trace =
      s.trace ++ ((if l && nmiEn s.ctrl then [.line .nmi s.uartIrq] else []) ++ [.line .clkmon (!l)]) := by
  unfold uartClock
  split
  · simp only [emitLine_trace, driveNmi_trace, List.append_assoc]
  · simp only [emitLine_trace, List.nil_append]

theorem uartClock_nmiOut (l : Bool) (s : State) :
    (uartClock l s).nmiOut = if l && nmiEn s.ctrl then s.uartIrq else s.nmiOut := by
  unfold uartClock
  split <;> rfl

theorem uartClock_uartIrq (l : Bool) (s : State) : (uartClock l s).uartIrq = s.uartIrq := by
  unfold uartClock
  split <;> rfl

theorem uartClock_clkmon (l : Bool) (s : State) : (uartClock l s).lines.clkmon = !l :=
  lineLevel_setLine_same .clkmon (!l) _

/-- The NMI's own emit is on another line, so the monitor's is the only one heard on CLKMON. -/
theorem lineLevels_clkmon_uartClock (l : Bool) (s : State) :
    lineLevels .clkmon (newOutput s (uartClock l s)) = [!l] := by
  rw [newOutput_of_trace (uartClock_trace l s), lineLevels_append]
  split <;> rfl

/-- Settles O44: the monitor is driven on both branches of the gate. -/
theorem clockMonitorAlwaysEmits : Obligations.ClockMonitorAlwaysEmits := fun l s =>
  ⟨_, exec_uartClk l s, lineLevels_clkmon_uartClock l s, uartClock_clkmon l s⟩

theorem decode_uartTxdWord (l : Bool) : decode (0b100001100000000#15 ++ BitVec.ofBool l) = .ok (.uartTxd l) := by
  cases l <;> rfl

/-- Settles O46: the event is the one emit on DATA_SENT. -/
theorem transmitDataIsForwarded : Obligations.TransmitDataIsForwarded := fun l _ =>
  ⟨decode_uartTxdWord l, rfl⟩

theorem decode_uartIrqWord (l : Bool) : decode (0b100001010000000#15 ++ BitVec.ofBool l) = .ok (.uartIrq l) := by
  cases l <;> rfl

theorem exec_uartIrq (l : Bool) (s : State) : exec (.uartIrq l) s = .next { s with uartIrq := l } := rfl

/-! ## Operations that leave the NMI alone -/

/-- From `s` to `t` nothing is emitted on NMI, and neither `NMI_OUT` nor the level it would copy is written. -/
structure LeavesNmi (s t : State) : Prop where
  uartIrq : t.uartIrq = s.uartIrq
  nmiOut : t.nmiOut = s.nmiOut
  output : ∃ out, t.trace = s.trace ++ out ∧ lineLevels .nmi out = []

theorem LeavesNmi.of_trace_eq {s t : State} (hq : t.uartIrq = s.uartIrq) (hn : t.nmiOut = s.nmiOut)
    (htrace : t.trace = s.trace) : LeavesNmi s t :=
  ⟨hq, hn, [], by rw [htrace, List.append_nil], rfl⟩

theorem LeavesNmi.trans {s t u : State} (h : LeavesNmi s t) (h' : LeavesNmi t u) : LeavesNmi s u := by
  obtain ⟨out, htrace, hsilent⟩ := h.output
  obtain ⟨out', htrace', hsilent'⟩ := h'.output
  refine ⟨h'.uartIrq.trans h.uartIrq, h'.nmiOut.trans h.nmiOut, out ++ out', ?_, ?_⟩
  · rw [htrace', htrace, List.append_assoc]
  · rw [lineLevels_append, hsilent, hsilent', List.append_nil]

theorem leavesNmi_emitLine {ln : Line} (hln : ln ≠ .nmi) (v : Bool) (s : State) : LeavesNmi s (emitLine ln v s) :=
  ⟨rfl, rfl, [.line ln v], rfl, by simp [lineLevelOf, hln]⟩

theorem leavesNmi_logCall {ev : OutEvent} (hev : lineLevelOf .nmi ev = none) (s : State) : LeavesNmi s (logCall ev s) :=
  ⟨rfl, rfl, [ev], rfl, by simp [hev]⟩

/-- The timer's chained events are heard on GATE1 and IRQ only (R44). -/
theorem leavesNmi_timerMayChain (e : Env) (s : State) : LeavesNmi s (timerMayChain e s) := by
  rw [timerMayChain_eq]
  exact ⟨rfl, rfl, _, rfl, lineLevels_of_timerOutput (timerRaised_chain _ s.c0out).1 (by decide) (by decide)⟩

theorem leavesNmi_timerReadAccess (e : Env) (off : BitVec 2) (s : State) : LeavesNmi s (timerReadAccess e off s) :=
  (leavesNmi_logCall rfl s).trans <| (leavesNmi_timerMayChain e _).trans (.of_trace_eq rfl rfl rfl)

theorem leavesNmi_timerWriteAccess (e : Env) (off : BitVec 2) (data : Byte) (s : State) :
    LeavesNmi s (timerWriteAccess e off data s) :=
  (leavesNmi_logCall rfl s).trans (leavesNmi_timerMayChain e _)

theorem leavesNmi_setFlipFlop (e : Env) (v : Bool) (s : State) : LeavesNmi s (setFlipFlop e v s) :=
  (leavesNmi_emitLine (by decide) _ s).trans <| (leavesNmi_timerMayChain e _).trans (.of_trace_eq rfl rfl rfl)

theorem leavesNmi_calibrationTick (e : Env) (s : State) : LeavesNmi s (calibrationTick e s) := by
  refine .trans ?_ (leavesNmi_setFlipFlop e _ _)
  exact .of_trace_eq rfl rfl rfl

theorem leavesNmi_out0Event (e : Env) (v : Bool) (s : State) : LeavesNmi s (out0Event e v s) :=
  (leavesNmi_emitLine (by decide) _ s).trans <| (leavesNmi_timerMayChain e _).trans (.of_trace_eq rfl rfl rfl)

theorem leavesNmi_applyVoltage (rise : BitVec 6) (k : Kind) (v : Rat) (s : State) :
    LeavesNmi s (applyVoltage rise k v s) := by
  rw [applyVoltage_eq]
  exact ⟨rfl, rfl, _, rfl, by simp [voltageEvents, lineLevels, lineLevelOf]⟩

theorem leavesNmi_writeChipSelect (e : Env) (mask : BitVec 6) (s : State) : LeavesNmi s (writeChipSelect e mask s) := by
  obtain ⟨ct, ph, n, hwrite, -⟩ := writeChipSelect_spec e mask s
  rw [hwrite]
  exact (leavesNmi_applyVoltage _ _ _ s).trans (.of_trace_eq rfl rfl rfl)

theorem leavesNmi_replay (e : Env) (s : State) : LeavesNmi s (replay e s) := by
  unfold replay
  split
  · exact (leavesNmi_writeChipSelect e 0 s).trans (leavesNmi_writeChipSelect e _ _)
  · exact .of_trace_eq rfl rfl rfl

theorem leavesNmi_writeDacHalf (e : Env) (off : BitVec 4) (data : Byte) (s : State) :
    LeavesNmi s (writeDacHalf e off data s) := by
  refine .trans ?_ (leavesNmi_replay e _)
  exact .of_trace_eq rfl rfl rfl

/-- A falling clock edge is heard on CLKMON only (R107). -/
theorem leavesNmi_uartClock_false (s : State) : LeavesNmi s (uartClock false s) :=
  ⟨uartClock_uartIrq false s, uartClock_nmiOut false s, _, uartClock_trace false s, rfl⟩

theorem leavesNmi_openRead (e : Env) (off : BitVec 4) (s : State) : LeavesNmi s (openRead e off s) :=
  .of_trace_eq rfl rfl rfl

/-! ## What a stimulus can do to the NMI and to the level it copies -/

/-- Five stimuli have an effect of their own on `NMI_OUT` or `UART_IRQ`; every other leaves them alone. -/
inductive NmiStep (s : State) : Instr → State → Prop where
  | leaves {i t} : LeavesNmi s t → NmiStep s i t
  | ctrlWr (data : Byte) : NmiStep s (.ctrlWr data) (controlWrite Config.env data s)
  | reset : NmiStep s .reset (resetBlock Config.env s)
  | uartClk (l : Bool) : NmiStep s (.uartClk l) (uartClock l s)
  | uartIrq (l : Bool) : NmiStep s (.uartIrq l) { s with uartIrq := l }
  | serialIn (l : Bool) : NmiStep s (.serialIn l) (emitToUart Config.env l s)

theorem leavesNmi_calTick {s t : State} (h : exec .calTick s = .next t) : LeavesNmi s t := by
  change execCalTick s = .next t at h
  unfold execCalTick at h
  split at h
  · exact Host.Outcome.next.inj h ▸ leavesNmi_calibrationTick Config.env s
  · cases h

theorem exec_nmiStep {i : Instr} {s t : State} (h : exec i s = .next t) : NmiStep s i t := by
  cases i with
  | calTick => exact .leaves (leavesNmi_calTick h)
  | ctrlWr data => exact Host.Outcome.next.inj h ▸ .ctrlWr data
  | reset => exact Host.Outcome.next.inj h ▸ .reset
  | uartClk l => exact Host.Outcome.next.inj h ▸ .uartClk l
  | uartIrq l => exact Host.Outcome.next.inj h ▸ .uartIrq l
  | serialIn l => exact Host.Outcome.next.inj h ▸ .serialIn l
  | timerRd off => exact .leaves (Host.Outcome.next.inj h ▸ leavesNmi_timerReadAccess _ off s)
  | timerWr off data => exact .leaves (Host.Outcome.next.inj h ▸ leavesNmi_timerWriteAccess _ off data s)
  | dachWr | daclWr => exact .leaves (Host.Outcome.next.inj h ▸ leavesNmi_writeDacHalf _ _ _ s)
  | cselWr data => exact .leaves (Host.Outcome.next.inj h ▸ leavesNmi_writeChipSelect _ _ s)
  | out0 l => exact .leaves (Host.Outcome.next.inj h ▸ leavesNmi_out0Event _ l s)
  | out2 l | uartTxd l => exact .leaves (Host.Outcome.next.inj h ▸ leavesNmi_emitLine (by decide) l s)
  | openRd4 | openRd9 | openRdA | openRdC => exact .leaves (Host.Outcome.next.inj h ▸ leavesNmi_openRead _ _ s)
  | stateRd | regselWr | ignoreWr4 | ignoreWr9 | ignoreWrD | ignoreWrF =>
    exact .leaves (Host.Outcome.next.inj h ▸ .of_trace_eq rfl rfl rfl)

/-- Only a UART interrupt, directly or chained to a serial input, raises the stored level. -/
theorem exec_uartIrq_false {i : Instr} {s t : State} (hquiet : ∀ v, i ≠ .uartIrq v ∧ i ≠ .serialIn v)
    (h : exec i s = .next t) (hs : s.uartIrq = false) : t.uartIrq = false := by
  cases exec_nmiStep h with
  | leaves hl => exact hl.uartIrq.trans hs
  | ctrlWr data =>
    obtain ⟨g, a, ct, ph, he, -⟩ := controlWrite_spec Config.env data s
    rw [he]
    exact hs
  | reset => rfl
  | uartClk l => exact (uartClock_uartIrq l s).trans hs
  | uartIrq l => exact absurd rfl (hquiet l).1
  | serialIn l => exact absurd rfl (hquiet l).2

/-! ## Without a rising clock edge nothing asserts the NMI -/

/-- From `s` to `t` no 1 is emitted on NMI, and `NMI_OUT` does not become 1. -/
structure NeverAssertsNmi (s t : State) : Prop where
  output : ∃ out, t.trace = s.trace ++ out ∧ true ∉ lineLevels .nmi out
  nmiOut : t.nmiOut = true → s.nmiOut = true

theorem LeavesNmi.neverAssertsNmi {s t : State} (h : LeavesNmi s t) : NeverAssertsNmi s t := by
  obtain ⟨out, htrace, hsilent⟩ := h.output
  exact ⟨⟨out, htrace, by simp [hsilent]⟩, fun ht => h.nmiOut ▸ ht⟩

theorem NeverAssertsNmi.of_trace_eq {s t : State} (htrace : t.trace = s.trace)
    (hn : t.nmiOut = true → s.nmiOut = true) : NeverAssertsNmi s t :=
  ⟨⟨[], by rw [htrace, List.append_nil], List.not_mem_nil⟩, hn⟩

theorem NeverAssertsNmi.refl (s : State) : NeverAssertsNmi s s :=
  .of_trace_eq rfl id

theorem NeverAssertsNmi.trans {s t u : State} (h : NeverAssertsNmi s t) (h' : NeverAssertsNmi t u) :
    NeverAssertsNmi s u := by
  obtain ⟨out, htrace, hlow⟩ := h.output
  obtain ⟨out', htrace', hlow'⟩ := h'.output
  refine ⟨⟨out ++ out', ?_, ?_⟩, h.nmiOut ∘ h'.nmiOut⟩
  · rw [htrace', htrace, List.append_assoc]
  · simp [hlow, hlow']

theorem NeverAssertsNmi.true_notMem_lineLevels {s t : State} (h : NeverAssertsNmi s t) :
    true ∉ lineLevels .nmi (newOutput s t) := by
  obtain ⟨out, htrace, hlow⟩ := h.output
  rwa [newOutput_of_trace htrace]

/-- Step 5 of a control write only clears the NMI (40_counter_gate.md R76). -/
theorem neverAssertsNmi_controlWrite (e : Env) (data : Byte) (s : State) : NeverAssertsNmi s (controlWrite e data s) := by
  have grows : (controlWrite e data s).trace = s.trace ++ newOutput s (controlWrite e data s) := by
    obtain ⟨g, a, ct, ph, he, -⟩ := controlWrite_spec e data s
    rw [newOutput_of_trace (s := s) (by rw [he]), he]
  refine ⟨⟨_, grows, ?_⟩, ?_⟩
  · rw [lineLevels_nmi_controlWrite, nmiClearEvents]
    split <;> simp [lineLevelOf]
  · rw [controlWrite_nmiOut]
    split <;> simp

/-- The events the UART chains go out on DATA_SENT or nowhere (R111 to R113). -/
theorem neverAssertsNmi_emitToUart (e : Env) (l : Bool) (s : State) : NeverAssertsNmi s (emitToUart e l s) := by
  rw [emitToUart_eq]
  refine (leavesNmi_emitLine (by decide) l s).neverAssertsNmi.trans ⟨⟨_, rfl, ?_⟩, id⟩
  rw [lineLevels_of_uartOutput (isUartOutput_chain _) (by decide)]
  exact List.not_mem_nil

theorem exec_neverAssertsNmi {i : Instr} {s t : State} (hclk : i ≠ .uartClk true) (h : exec i s = .next t) :
    NeverAssertsNmi s t := by
  cases exec_nmiStep h with
  | leaves hl => exact hl.neverAssertsNmi
  | ctrlWr data => exact neverAssertsNmi_controlWrite _ data s
  | reset => exact .of_trace_eq rfl nofun
  | uartClk l =>
    obtain rfl : l = false := by simpa using hclk
    exact (leavesNmi_uartClock_false s).neverAssertsNmi
  | uartIrq l => exact .of_trace_eq rfl id
  | serialIn l => exact neverAssertsNmi_emitToUart _ l s

/-! ## Runs of several stimuli -/

theorem execAll_cons_eq_next {i : Instr} {is : List Instr} {s u : State} :
    execAll (i :: is) s = .next u ↔ ∃ t, exec i s = .next t ∧ execAll is t = .next u := by
  rw [execAll]
  cases exec i s <;> simp

theorem execAll_append_eq_next {is js : List Instr} {s u : State} :
    execAll (is ++ js) s = .next u ↔ ∃ t, execAll is s = .next t ∧ execAll js t = .next u := by
  induction is generalizing s with
  | nil => simp [execAll]
  | cons i is ih =>
    simp only [List.cons_append, execAll_cons_eq_next, ih]
    tauto

/-- What every stimulus of a run keeps, the run keeps. -/
theorem execAll_keeps {P : State → Prop} {is : List Instr}
    (hstep : ∀ i ∈ is, ∀ s t, exec i s = .next t → P s → P t) {s t : State} (h : execAll is s = .next t) (hs : P s) :
    P t := by
  induction is generalizing s with
  | nil => exact Host.Outcome.next.inj h ▸ hs
  | cons i is ih =>
    obtain ⟨u, hi, hrest⟩ := execAll_cons_eq_next.1 h
    exact ih (fun j hj => hstep j (List.mem_cons_of_mem i hj)) hrest (hstep i List.mem_cons_self s u hi hs)

theorem execAll_neverAssertsNmi {is : List Instr} (hclk : .uartClk true ∉ is) {s t : State}
    (h : execAll is s = .next t) : NeverAssertsNmi s t :=
  execAll_keeps (P := NeverAssertsNmi s)
    (fun _ hi _ _ hstep hs => hs.trans (exec_neverAssertsNmi (fun heq => hclk (heq ▸ hi)) hstep)) h (.refl s)

theorem execAll_uartIrq_false {is : List Instr} (hquiet : ∀ v, .uartIrq v ∉ is ∧ .serialIn v ∉ is) {s t : State}
    (h : execAll is s = .next t) (hs : s.uartIrq = false) : t.uartIrq = false :=
  execAll_keeps (P := fun u => u.uartIrq = false)
    (fun _ hi _ _ => exec_uartIrq_false fun v =>
      ⟨fun heq => (hquiet v).1 (heq ▸ hi), fun heq => (hquiet v).2 (heq ▸ hi)⟩) h hs

/-- After the pulse's fall the stored level is 0 and stays 0. -/
theorem execAll_pulse_uartIrq {between after : List Instr} (hquiet : ∀ v, .uartIrq v ∉ after ∧ .serialIn v ∉ after)
    {s t : State} (h : execAll (.uartIrq true :: (between ++ .uartIrq false :: after)) s = .next t) :
    t.uartIrq = false := by
  obtain ⟨_, -, hrest⟩ := execAll_cons_eq_next.1 h
  obtain ⟨_, -, hfall⟩ := execAll_append_eq_next.1 hrest
  obtain ⟨_, hstore, hafter⟩ := execAll_cons_eq_next.1 hfall
  obtain rfl := Host.Outcome.next.inj hstore
  exact execAll_uartIrq_false hquiet hafter rfl

/-- Settles O47: no stimulus of the pulse's run is a rising clock edge, so nothing asserts the NMI, and the next edge copies the 0 of the
pulse's fall. -/
theorem uartInterruptIsStored : Obligations.UartInterruptIsStored := by
  intro l s
  refine ⟨decode_uartIrqWord l, exec_uartIrq l s, fun between after t hclk hquiet hrun => ?_⟩
  have low : t.uartIrq = false := execAll_pulse_uartIrq hquiet hrun
  have noEdge : .uartClk true ∉ .uartIrq true :: (between ++ .uartIrq false :: after) := by
    simpa using hclk
  have never : NeverAssertsNmi s t := execAll_neverAssertsNmi noEdge hrun
  refine ⟨low, never.true_notMem_lineLevels, never.nmiOut, _, exec_uartClk true t, ?_⟩
  rw [uartClock_nmiOut, low, Bool.true_and, nmiEn]

end Sys2Proof.Machine
end

section
/-! PROOF. Decoding and encoding undo each other, agree with the rows of opcode_table.json, and leave exactly the reserved words to be
refused (30_encoding.md R54 to R58, R66, R67). Every proof goes through the two word forms, `busWord` and `eventWord`. -/

namespace Sys2Proof

/-! ## Every word without a reserved bit has one of the two forms (R54 to R56) -/

theorem exists_head_append (w : StimulusWord) : ∃ head data : Byte, w = head ++ data :=
  ⟨w.extractLsb' 8 8, w.extractLsb' 0 8, BitVec.eq_of_getLsbD_eq fun i hi => by
    rw [BitVec.getLsbD_append, BitVec.getLsbD_extractLsb', BitVec.getLsbD_extractLsb']
    split
    · simp [*]
    · simp [show i - 8 < 8 by omega, show 8 + (i - 8) = i by omega]⟩

theorem busHead_eq (head : Byte) : head.getLsbD 7 = false → head.extractLsb' 5 2 = 0#2 →
    head = 0b000#3 ++ BitVec.ofBool (head.getLsbD 4) ++ head.extractLsb' 0 4 := by
  revert head; decide

theorem exists_busWord {w : StimulusWord} (format : w.getLsbD 15 = false) (reserved : w.extractLsb' 13 2 = 0#2) :
    ∃ write off data, w = busWord write off data := by
  obtain ⟨head, data, rfl⟩ := exists_head_append w
  rw [BitVec.getLsbD_append] at format
  rw [BitVec.extractLsb'_append_eq_of_le (by decide)] at reserved
  exact ⟨head.getLsbD 4, head.extractLsb' 0 4, data, congrArg (· ++ data) (busHead_eq head format reserved)⟩

theorem eventHead_eq (head : Byte) : head.getLsbD 7 = true → head.extractLsb' 4 3 = 0#3 →
    head = 0b1000#4 ++ head.extractLsb' 0 4 := by
  revert head; decide

theorem eventTail_eq (data : Byte) : data.extractLsb' 1 7 = 0#7 → data = 0#7 ++ BitVec.ofBool (data.getLsbD 0) := by
  revert data; decide

theorem eventWord_eq_append (code : BitVec 4) (level : Bool) :
    eventWord code level = (0b1000#4 ++ code) ++ (0#7 ++ BitVec.ofBool level) := by
  revert code level; decide

theorem exists_eventWord {w : StimulusWord} (format : w.getLsbD 15 = true) (high : w.extractLsb' 12 3 = 0#3)
    (low : w.extractLsb' 1 7 = 0#7) : ∃ code level, w = eventWord code level := by
  obtain ⟨head, data, rfl⟩ := exists_head_append w
  rw [BitVec.getLsbD_append] at format
  rw [BitVec.extractLsb'_append_eq_of_le (by decide)] at high
  rw [BitVec.extractLsb'_append_eq_of_add_le (by decide)] at low
  refine ⟨head.extractLsb' 0 4, data.getLsbD 0, ?_⟩
  rw [eventWord_eq_append, ← eventHead_eq head format high, ← eventTail_eq data low]

/-! ## Decoding the two forms (R67) -/

/-- The counterpart of `decode_busWord_write`: with W = 0 only the offset matters. -/
theorem decode_busWord_read (off : BitVec 4) (data : Byte) :
    decode (busWord false off data) = .ok (decodeRead off) := by
  have format : (busWord false off data).getLsbD 15 = false := by
    simp only [busWord, BitVec.getLsbD_append]
    rfl
  have reserved : (busWord false off data).extractLsb' 13 2 = 0#2 := by
    rw [busWord, BitVec.extractLsb'_append_eq_of_le (by decide), BitVec.extractLsb'_append_eq_of_le (by decide)]
    rfl
  have read : (busWord false off data).getLsbD 12 = false := by
    simp only [busWord, BitVec.getLsbD_append]
    rfl
  have offset : (busWord false off data).extractLsb' 8 4 = off := by
    rw [busWord, BitVec.extractLsb'_append_eq_of_le (by decide)]
    exact BitVec.extractLsb'_append_eq_right
  simp only [decode, decodeBus, format, reserved, read, offset, ne_eq, not_true_eq_false, Bool.false_eq_true, if_false]

theorem decode_busWord_ok (write : Bool) (off : BitVec 4) (data : Byte) :
    ∃ i, decode (busWord write off data) = .ok i := by
  cases write
  · exact ⟨_, decode_busWord_read off data⟩
  · exact ⟨_, decode_busWord_write off data⟩

theorem decode_of_busReserved {w : StimulusWord} (format : w.getLsbD 15 = false) (h : w.extractLsb' 13 2 ≠ 0#2) :
    decode w = .error .reservedBits := by
  rw [decode, format, if_neg Bool.false_ne_true, decodeBus, if_pos h]

theorem decode_of_eventReserved {w : StimulusWord} (format : w.getLsbD 15 = true)
    (h : w.extractLsb' 12 3 ≠ 0#3 ∨ w.extractLsb' 1 7 ≠ 0#7) : decode w = .error .reservedBits := by
  rw [decode, format, if_pos rfl]
  exact if_pos h

theorem exists_ok_of_isOk {w : StimulusWord} (h : (decode w).isOk = true) : ∃ i, decode w = .ok i := by
  cases hw : decode w with
  | ok i => exact ⟨i, rfl⟩
  | error err => rw [hw] at h; cases h

/-- What a word decodes to, by its form. -/
theorem decode_eq_ok {w : StimulusWord} {i : Instr} (h : decode w = .ok i) :
    (∃ off data, w = busWord true off data ∧ i = decodeWrite off data) ∨
    (∃ off data, w = busWord false off data ∧ i = decodeRead off) ∨ ∃ code level, w = eventWord code level := by
  cases format : w.getLsbD 15
  · by_cases reserved : w.extractLsb' 13 2 = 0#2
    · obtain ⟨write, off, data, rfl⟩ := exists_busWord format reserved
      cases write
      · rw [decode_busWord_read] at h
        exact .inr (.inl ⟨off, data, rfl, (Except.ok.inj h).symm⟩)
      · rw [decode_busWord_write] at h
        exact .inl ⟨off, data, rfl, (Except.ok.inj h).symm⟩
    · rw [decode_of_busReserved format reserved] at h
      cases h
  · by_cases reserved : w.extractLsb' 12 3 ≠ 0#3 ∨ w.extractLsb' 1 7 ≠ 0#7
    · rw [decode_of_eventReserved format reserved] at h
      cases h
    · obtain ⟨high, low⟩ : w.extractLsb' 12 3 = 0#3 ∧ w.extractLsb' 1 7 = 0#7 := by simpa using reserved
      exact .inr (.inr (exists_eventWord format high low))

/-! ## The word of a stimulus decodes to it -/

theorem decodeWrite_timer (off : BitVec 2) (data : Byte) : decodeWrite (0b00#2 ++ off) data = .timerWr off data := by
  obtain ⟨n⟩ := off
  fin_cases n <;> rfl

theorem decodeWrite_gap4 (low : BitVec 2) (data : Byte) :
    decodeWrite (0b01#2 ++ low) data = .ignoreWr4 (0b01#2 ++ low) data := by
  obtain ⟨n⟩ := low
  fin_cases n <;> rfl

theorem eq_append_of_gap4 (off : BitVec 4) : (off.extractLsb' 2 2 == 0b01#2) = true → 0b01#2 ++ off.extractLsb' 0 2 = off := by
  revert off; decide

/-- Settles O1: each constructor's word has the fields of its row, and an unmapped access's offset is rebuilt from its row's bits. -/
theorem encodeThenDecodeGivesTheStimulus : Obligations.EncodeThenDecodeGivesTheStimulus := by
  intro i hwf
  cases i with
  | timerRd off => rw [encode, decode_busWord_read]; revert off; decide
  | timerWr off data => rw [encode, decode_busWord_write, decodeWrite_timer]
  | openRd4 off | openRdA off | openRdC off => rw [encode, decode_busWord_read]; revert off; decide
  | ignoreWr4 off data => rw [encode, decode_busWord_write, decodeWrite_gap4, eq_append_of_gap4 off hwf]
  | stateRd | openRd9 => exact decode_busWord_read _ 0
  | ctrlWr data | dachWr data | daclWr data | regselWr data | cselWr data | ignoreWr9 data | ignoreWrD data | ignoreWrF data =>
    exact decode_busWord_write _ data
  | reset | calTick => rfl
  | out0 level | out2 level | uartClk level | uartIrq level | uartTxd level | serialIn level => cases level <;> rfl

/-! ## A word that decodes is the word of its stimulus -/

theorem decodeWrite_encode (off : BitVec 4) (data : Byte) :
    WellFormed (decodeWrite off data) = true ∧ encode (decodeWrite off data) = busWord true off data := by
  obtain ⟨n⟩ := off
  fin_cases n <;> exact ⟨rfl, rfl⟩

theorem decodeRead_encode (off : BitVec 4) :
    WellFormed (decodeRead off) = true ∧ encode (decodeRead off) = busWord false off 0 := by
  revert off; decide

theorem decode_eventWord_encode (code : BitVec 4) (level : Bool) :
    ∀ i ∈ (decode (eventWord code level)).toOption, WellFormed i = true ∧ encode i = eventWord code level := by
  revert code level; decide

theorem canonicalWord_write (off : BitVec 4) (data : Byte) : canonicalWord (busWord true off data) = busWord true off data := by
  have write : (busWord true off data).getLsbD 12 = true := by
    simp only [busWord, BitVec.getLsbD_append]
    rfl
  rw [canonicalWord, write, Bool.or_true, if_pos rfl]

theorem busWord_zero_and (off : BitVec 4) : busWord false off 0 &&& (0xFF#8 ++ 0#8) = busWord false off 0 := by
  revert off; decide

theorem canonicalWord_read (off : BitVec 4) (data : Byte) : canonicalWord (busWord false off data) = busWord false off 0 := by
  have read : ((busWord false off data).getLsbD 15 || (busWord false off data).getLsbD 12) = false := by
    simp only [busWord, BitVec.getLsbD_append]
    rfl
  rw [canonicalWord, read, if_neg Bool.false_ne_true]
  exact (Laws.EncodedInRow.busWord_and_mask false off data 0xFF#8).trans (busWord_zero_and off)

theorem canonicalWord_event (code : BitVec 4) (level : Bool) : canonicalWord (eventWord code level) = eventWord code level := by
  revert code level; decide

/-- Settles O2, by the form of the word. -/
theorem decodedWordEncodesBack : Obligations.DecodedWordEncodesBack := by
  intro w i h
  rcases decode_eq_ok h with ⟨off, data, rfl, rfl⟩ | ⟨off, data, rfl, rfl⟩ | ⟨code, level, rfl⟩
  · rw [canonicalWord_write]
    exact decodeWrite_encode off data
  · rw [canonicalWord_read]
    exact decodeRead_encode off
  · rw [canonicalWord_event]
    exact decode_eventWord_encode code level i (by rw [h]; rfl)

/-! ## The rows of the opcode table -/

open Laws.EncodedInRow in
theorem inRow_encode : ∀ i : Instr, inRow i (encode i)
  | .timerRd off => timerRd off
  | .timerWr off data => timerWr off data
  | .stateRd => stateRd
  | .ctrlWr data => ctrlWr data
  | .dachWr data => dachWr data
  | .daclWr data => daclWr data
  | .regselWr data => regselWr data
  | .cselWr data => cselWr data
  | .openRd4 off => openRd4 off
  | .openRd9 => openRd9
  | .openRdA off => openRdA off
  | .openRdC off => openRdC off
  | .ignoreWr4 off data => ignoreWr4 off data
  | .ignoreWr9 data => ignoreWr9 data
  | .ignoreWrD data => ignoreWrD data
  | .ignoreWrF data => ignoreWrF data
  | .reset => reset
  | .calTick => calTick
  | .out0 level => out0 level
  | .out2 level => out2 level
  | .uartClk level => uartClk level
  | .uartIrq level => uartIrq level
  | .uartTxd level => uartTxd level
  | .serialIn level => serialIn level

/-- The row of a read has no fixed data bit. -/
theorem readRow_mask (off : BitVec 4) :
    (opcodeRow (decodeRead off)).1 = (opcodeRow (decodeRead off)).1.extractLsb' 8 8 ++ 0#8 := by
  revert off; decide

theorem inRow_of_decode {w : StimulusWord} {i : Instr} (h : decode w = .ok i) : inRow i w := by
  rcases decode_eq_ok h with ⟨off, data, rfl, rfl⟩ | ⟨off, data, rfl, rfl⟩ | ⟨code, level, rfl⟩
  · exact (decodeWrite_encode off data).2 ▸ inRow_encode _
  · have row : inRow (decodeRead off) (busWord false off 0) := (decodeRead_encode off).2 ▸ inRow_encode _
    rw [inRow, readRow_mask] at row ⊢
    rw [Laws.EncodedInRow.busWord_and_mask, row]
  · have back := decode_eventWord_encode code level i (by rw [h]; rfl)
    exact back.2 ▸ inRow_encode i

/-- One stimulus of each row of opcode_table.json. -/
def rowStimuli : List Instr :=
  [.timerRd 0, .timerWr 0 0, .stateRd, .ctrlWr 0, .dachWr 0, .daclWr 0, .regselWr 0, .cselWr 0, .openRd4 4, .openRd9, .openRdA 0xA,
    .openRdC 0xC, .ignoreWr4 4 0, .ignoreWr9 0, .ignoreWrD 0, .ignoreWrF 0, .reset, .calTick, .out0 false, .out2 false,
    .uartClk false, .uartIrq false, .uartTxd false, .serialIn false]

theorem exists_rowStimulus (i : Instr) : ∃ j ∈ rowStimuli, opcodeRow j = opcodeRow i := by
  have listed : opcodeRow i ∈ rowStimuli.map opcodeRow := by
    cases i <;> exact List.elem_iff.1 rfl
  exact List.mem_map.1 listed

/-- Two rows that agree on the bits both fix are one row. -/
theorem rowStimuli_disjoint : ∀ i ∈ rowStimuli, ∀ j ∈ rowStimuli,
    (opcodeRow i).2 &&& (opcodeRow j).1 = (opcodeRow j).2 &&& (opcodeRow i).1 → opcodeRow i = opcodeRow j := by
  decide +kernel

theorem opcodeRow_eq_of_inRow {i j : Instr} {w : StimulusWord} (hi : inRow i w) (hj : inRow j w) :
    opcodeRow i = opcodeRow j := by
  obtain ⟨i', memi, rowi⟩ := exists_rowStimulus i
  obtain ⟨j', memj, rowj⟩ := exists_rowStimulus j
  rw [inRow, ← rowi] at hi
  rw [inRow, ← rowj] at hj
  rw [← rowi, ← rowj]
  refine rowStimuli_disjoint i' memi j' memj ?_
  rw [← hi, ← hj, BitVec.and_assoc, BitVec.and_assoc, BitVec.and_comm (opcodeRow i').1]

/-- Every row fixes the format bit and, to 0, bits 14:13; an event row also bits 14:12 and 7:1. -/
theorem rowStimuli_fields : ∀ i ∈ rowStimuli,
    (opcodeRow i).1.getLsbD 15 = true ∧
    ((opcodeRow i).1.extractLsb' 13 2 = .allOnes 2 ∧ (opcodeRow i).2.extractLsb' 13 2 = 0#2) ∧
    ((opcodeRow i).2.getLsbD 15 = true →
      ((opcodeRow i).1.extractLsb' 12 3 = .allOnes 3 ∧ (opcodeRow i).2.extractLsb' 12 3 = 0#3) ∧
      (opcodeRow i).1.extractLsb' 1 7 = .allOnes 7 ∧ (opcodeRow i).2.extractLsb' 1 7 = 0#7) := by
  decide +kernel

/-- An event word of some row has a code and a level that decode. -/
theorem rowStimuli_events : ∀ i ∈ rowStimuli, ∀ code level,
    eventWord code level &&& (opcodeRow i).1 = (opcodeRow i).2 → (decode (eventWord code level)).isOk = true := by
  decide +kernel

/-- A field that a row fixes is the row's in every word of the row. -/
theorem field_of_inRow {i : Instr} {w : StimulusWord} (h : inRow i w) {start len : Nat}
    (fixed : (opcodeRow i).1.extractLsb' start len = .allOnes len) :
    w.extractLsb' start len = (opcodeRow i).2.extractLsb' start len := by
  rw [inRow] at h
  rw [← h, BitVec.extractLsb'_and, fixed, BitVec.and_allOnes]

theorem exists_ok_of_inRow {i : Instr} {w : StimulusWord} (h : inRow i w) : ∃ j, decode w = .ok j := by
  obtain ⟨r, mem, row⟩ := exists_rowStimulus i
  rw [inRow, ← row] at h
  obtain ⟨formatBit, ⟨busBits, busZero⟩, event⟩ := rowStimuli_fields r mem
  have format : w.getLsbD 15 = (opcodeRow r).2.getLsbD 15 := by
    rw [← show _ = _ from h, BitVec.getLsbD_and, formatBit, Bool.and_true]
  cases isEvent : (opcodeRow r).2.getLsbD 15
  · obtain ⟨write, off, data, rfl⟩ := exists_busWord (format.trans isEvent) ((field_of_inRow h busBits).trans busZero)
    exact decode_busWord_ok write off data
  · obtain ⟨⟨highBits, highZero⟩, lowBits, lowZero⟩ := event isEvent
    obtain ⟨code, level, rfl⟩ := exists_eventWord (format.trans isEvent) ((field_of_inRow h highBits).trans highZero)
      ((field_of_inRow h lowBits).trans lowZero)
    exact exists_ok_of_isOk (rowStimuli_events r mem code level h)

/-- Settles O3: a word of a row decodes, its stimulus's row fixes bits of the word too, and no two rows share a word. -/
theorem decodeFollowsTheOpcodeTable : Obligations.DecodeFollowsTheOpcodeTable := by
  refine ⟨fun w i => inRow_of_decode, fun w i hi => ?_⟩
  obtain ⟨j, hj⟩ := exists_ok_of_inRow hi
  exact ⟨j, hj, opcodeRow_eq_of_inRow (inRow_of_decode hj) hi⟩

/-- Settles O5, word by word. -/
theorem sampleWordsDecode : Obligations.SampleWordsDecode :=
  ⟨rfl, rfl, rfl, rfl, rfl, rfl, rfl, rfl, rfl, rfl, rfl, rfl, rfl, rfl⟩

end Sys2Proof

namespace Sys2Proof.Machine

/-! ## The step on a placed word, and with nothing placed -/

theorem step_placed {s : State} {w : StimulusWord} {rest : List StimulusWord} (h : s.inbox = w :: rest) :
    step s = stepWord w { s with inbox := rest } := by
  rw [step, h]

theorem step_empty {s : State} (h : s.inbox = []) : step s = stepAgents s := by
  rw [step, h]

theorem step_of_decode_ok {s : State} {w : StimulusWord} {rest : List StimulusWord} {i : Instr} (h : s.inbox = w :: rest)
    (hw : decode w = .ok i) : step s = exec i { s with inbox := rest } := by
  rw [step_placed h, stepWord, hw]

theorem step_of_decode_error {s : State} {w : StimulusWord} {rest : List StimulusWord} {err : DecodeError}
    (h : s.inbox = w :: rest) (hw : decode w = .error err) : step s = .refused (refusalOf err w) := by
  rw [step_placed h, stepWord, hw]

/-- An agent's stimulus is one that the drawn word decodes to and that it can supply now. -/
theorem agentStimulus_eq_some {e : Env} {s : State} {i : Instr} (h : agentStimulus e s = some i) :
    decode (e.agentWord s.draws s.trace) = .ok i ∧ admissible i s = true := by
  rw [agentStimulus, Option.filter_eq_some_iff] at h
  obtain ⟨drawn, adm⟩ := h
  cases hw : decode (e.agentWord s.draws s.trace) with
  | ok j => rw [hw] at drawn; exact ⟨congrArg _ (Option.some.inj drawn), adm⟩
  | error err => rw [hw] at drawn; cases drawn

/-- Settles O6. -/
theorem stepRunsTheDecodedStimulus : Obligations.StepRunsTheDecodedStimulus := fun _ _ _ _ => step_of_decode_ok

/-- Settles O7: the agents' choice is a decoded word, so a well-formed stimulus (O2), and an admissible one. -/
theorem emptyInboxStepIsAnAgentsChoice : Obligations.EmptyInboxStepIsAnAgentsChoice := by
  intro s hempty
  have choice : step s = stepAgents s := step_empty hempty
  cases agent : agentStimulus Config.env s with
  | none => exact .inl (by rw [choice, stepAgents, agent]; rfl)
  | some i =>
    obtain ⟨drawn, adm⟩ := agentStimulus_eq_some agent
    refine .inr ⟨i, (decodedWordEncodesBack _ i drawn).1, ?_, ?_, by rw [choice, stepAgents, agent]; rfl⟩
    · rintro rfl
      exact of_decide_eq_true adm
    · rintro l rfl
      exact of_decide_eq_true adm

/-! ## The reserved words (R66) -/

/-- What R57's codes decode to: 0 and 1 carry no level, 2 to 7 carry one, 8 to 15 are reserved. -/
theorem decode_eventWord (code : BitVec 4) (level : Bool) :
    (8 ≤ code.toNat → decode (eventWord code level) = .error .reservedEventCode) ∧
    (code.toNat < 2 → level = true → decode (eventWord code level) = .error .reservedBits) ∧
    (code.toNat < 2 → level = false → (decode (eventWord code level)).isOk = true) ∧
    (2 ≤ code.toNat → code.toNat < 8 → (decode (eventWord code level)).isOk = true) := by
  revert code level; decide

theorem eventWord_fields (code : BitVec 4) (level : Bool) :
    (eventWord code level).extractLsb' 8 4 = code ∧ (eventWord code level).getLsbD 0 = level := by
  revert code level; decide

/-- Settles O4: a bus word is refused by its bits 14:13 alone, an event word by its zero bits, its code and its level. -/
theorem reservedWordsAreRefused : Obligations.ReservedWordsAreRefused := by
  intro s w rest hin
  refine ⟨fun format => ⟨fun h => step_of_decode_error hin (decode_of_busReserved format h), fun h => ?_⟩,
    fun format => ⟨fun h => step_of_decode_error hin (decode_of_eventReserved format h), fun high low => ?_⟩⟩
  · obtain ⟨write, off, data, rfl⟩ := exists_busWord format h
    exact decode_busWord_ok write off data
  · obtain ⟨code, level, rfl⟩ := exists_eventWord format high low
    obtain ⟨hcode, hlevel⟩ := eventWord_fields code level
    obtain ⟨reserved, bareHigh, bareLow, levelled⟩ := decode_eventWord code level
    rw [hcode, hlevel]
    exact ⟨fun h => step_of_decode_error hin (reserved h), fun h h1 => step_of_decode_error hin (bareHigh h h1),
      fun h h0 => exists_ok_of_isOk (bareLow h h0), fun h h' => exists_ok_of_isOk (levelled h h')⟩

end Sys2Proof.Machine
end

section
/-! PROOF. The whole next state of the stimuli that run one operation: the reset, the ticks and timer accesses of the counter/gate chain,
the serial link and the window gaps. The chain laws put each collaborator's chain in closed form. -/

namespace Sys2Proof.Machine

/-! ## Which stimuli complete (40_counter_gate.md R79, 60_exceptions.md R116) -/

theorem exec_calTick_running {s : State} {f : RealMark} (h : s.calTimer = .running f) :
    exec .calTick s = .next (calibrationTick Config.env s) := by
  change execCalTick s = _
  rw [execCalTick, h]

/-- Settles O23. -/
theorem calTickWhileStoppedIsRefused : Obligations.CalTickWhileStoppedIsRefused := by
  intro s h
  change execCalTick s = _
  rw [execCalTick, h]

/-- Settles O8: every arm answers a state but the tick's, which looks at the timer first. -/
theorem onlyAStoppedTickIsRefused : Obligations.OnlyAStoppedTickIsRefused := by
  intro i s
  cases i with
  | calTick =>
    cases h : s.calTimer with
    | stopped => exact .inr ⟨rfl, rfl, calTickWhileStoppedIsRefused s h⟩
    | running f => exact .inl ⟨_, exec_calTick_running h⟩
  | _ => exact .inl ⟨_, rfl⟩

/-! ## The reset (70_reset_and_hazards.md R130, R131) -/

theorem lineLevel_afterReset (e : Env) (n : Nat) (h : History) (ln : Line) :
    lineLevel ln (Lines.afterReset e n h) = e.lineAtReset n h ln := by
  cases ln <;> rfl

theorem voiceGainAfterReset_get (e : Env) (n : Nat) (h : History) (i : Voice) :
    (voiceGainAfterReset e n h)[i] = .supplied (e.voiceGainAtReset n h i) := by
  fin_cases i <;> rfl

theorem voltagesAfterReset_get (v : Kind → Level) (k : Kind) : (voltagesAfterReset v)[k.index] = v k := by
  cases k <;> rfl

theorem voiceVoltAfterReset_get (e : Env) (n : Nat) (h : History) (i : Voice) (k : Kind) :
    (voiceVoltAfterReset e n h)[i][k.index] = .supplied (e.voiceVoltAtReset n h i k) := by
  have voice : (voiceVoltAfterReset e n h)[i] = voltagesAfterReset fun k => .supplied (e.voiceVoltAtReset n h i k) := by
    fin_cases i <;> rfl
  rw [voice, voltagesAfterReset_get]

/-- Settles O13: the block's reset, with the draws of its lines and voices read one by one. -/
theorem resetEventAssignsTheResetValues : Obligations.ResetEventAssignsTheResetValues := fun s =>
  ⟨_, _, _, rfl, lineLevel_afterReset Config.env s.draws s.trace, voiceGainAfterReset_get Config.env s.draws s.trace,
    voiceVoltAfterReset_get Config.env s.draws s.trace⟩

/-- Settles O12, value by value. -/
theorem resetStateValues : Obligations.ResetStateValues :=
  ⟨rfl, rfl, rfl, rfl, rfl, rfl, rfl, rfl, rfl, rfl, rfl, rfl, rfl, rfl, rfl⟩

/-! ## `STATE_RD` (40_counter_gate.md R77) -/

theorem counterState_getLsbD (ff c0out : Bool) :
    (counterState ff c0out).getLsbD 0 = !ff ∧ (counterState ff c0out).getLsbD 1 = c0out := by
  revert ff c0out; decide

/-- The two bits are widened by zeros. -/
theorem counterState_getLsbD_high (ff c0out : Bool) {n : Nat} (hn : 2 ≤ n) :
    (counterState ff c0out).getLsbD n = false := by
  rw [counterState, BitVec.getLsbD_setWidth, BitVec.getLsbD_of_ge _ _ (by omega), Bool.and_false]

theorem exec_stateRd (s : State) : exec .stateRd s = .next { s with readData := counterState s.ff s.c0out } := rfl

/-- The head byte 0x08 is R55's `0`, `00`, W = 0 and the offset 8 (R58). -/
theorem stateRdHead_append (x : Byte) : 0x08#8 ++ x = busWord false 0x8 x := rfl

/-- Settles O21: the byte read is the counter state, and the read leaves both its bits. -/
theorem stateReadReturnsTheCounterState : Obligations.StateReadReturnsTheCounterState := by
  refine ⟨fun x => ?_, fun s => ⟨counterState s.ff s.c0out, exec_stateRd s, (counterState_getLsbD _ _).1,
    (counterState_getLsbD _ _).2, fun n => counterState_getLsbD_high _ _, rfl⟩,
    _, exec_stateRd State.reset, (counterState_getLsbD _ _).2⟩
  rw [stateRdHead_append, decode_busWord_read]
  rfl

/-! ## The events of the timer (40_counter_gate.md R79, R80, R85) -/

/-- Settles O22: a tick is one `set_flip_flop` call with control bit 3, after the phase has advanced. -/
theorem calTickSamplesControlBit3 : Obligations.CalTickSamplesControlBit3 := by
  intro s f h
  rw [exec_calTick_running h, calibrationTick, setFlipFlop_eq]
  rfl

theorem exec_out0 (l : Bool) (s : State) : exec (.out0 l) s = .next {
    afterChain (Config.timerChain s.draws (s.trace ++ [.line .gate1 (!l)])) { s with
      lines := { s.lines with gate1 := !l }
      trace := s.trace ++ [.line .gate1 (!l)]
      draws := s.draws + 1 } with
    c0out := l } := by
  change Host.Outcome.next (out0Event Config.env l s) = _
  rw [out0Event, out0Around, timerMayChain_eq]
  rfl

/-- An OUT0 inside a chain is the stimulus but for the moment, which only a stimulus of its own uses. -/
theorem runTimerChain_out0 (e : Env) (l : Bool) (rest : TimerChain) (s : State) :
    runTimerChain (.out0 l (e.timerChain s.draws (s.trace ++ [.line .gate1 (!l)])) rest) s =
      runTimerChain rest { out0Event e l s with draws := s.draws } := by
  rw [runTimerChain, out0Around, runTimerChain_eq _ (emitLine _ _ s), out0Event, out0Around, timerMayChain_eq]
  rfl

theorem decode_out0Word (l : Bool) : decode (0b100000100000000#15 ++ BitVec.ofBool l) = .ok (.out0 l) := by
  cases l <;> rfl

/-- Settles O24. -/
theorem out0GatesChannel1AndIsRecorded : Obligations.Out0GatesChannel1AndIsRecorded := fun l s =>
  ⟨decode_out0Word l, exec_out0 l s, rfl, fun e rest => runTimerChain_out0 e l rest s⟩

/-- Settles O25: alone and in a chain an OUT2 is the one emit on IRQ. -/
theorem out2DrivesTheInterruptLine : Obligations.Out2DrivesTheInterruptLine := fun l s =>
  ⟨out2Event l s, rfl, rfl, fun _ => rfl⟩

/-! ## The timer's window (R83, R84) -/

/-- The head of a timer access is R55's `0`, `00`, W and the offset 0 to 3 (R58). -/
theorem timerHead_append (write : Bool) (off : BitVec 2) (x : Byte) :
    (0b000#3 ++ BitVec.ofBool write ++ 0b00#2) ++ off ++ x = busWord write (0b00#2 ++ off) x := by
  have head : ∀ (write : Bool) (off : BitVec 2),
      (0b000#3 ++ BitVec.ofBool write ++ 0b00#2) ++ off = 0b000#3 ++ BitVec.ofBool write ++ (0b00#2 ++ off) := by decide
  exact congrArg (· ++ x) (head write off)

theorem decode_timerRdWord (off : BitVec 2) (x : Byte) : decode (0b000000#6 ++ off ++ x) = .ok (.timerRd off) := by
  have row : ∀ off : BitVec 2, decodeRead (0b00#2 ++ off) = .timerRd off := by decide
  exact (congrArg decode (timerHead_append false off x)).trans ((decode_busWord_read _ x).trans (congrArg _ (row off)))

theorem exec_timerRd (off : BitVec 2) (s : State) : exec (.timerRd off) s = .next {
    afterChain (Config.timerChain s.draws (s.trace ++ [.timerRead off])) { s with
      trace := s.trace ++ [.timerRead off], draws := s.draws + 1 } with
    readData := Config.timerRead s.draws (s.trace ++ [.timerRead off]) off } := by
  change Host.Outcome.next (timerReadAccess Config.env off s) = _
  rw [timerReadAccess, timerMayChain_eq]
  rfl

/-- Settles O26. -/
theorem timerReadPassesThrough : Obligations.TimerReadPassesThrough := fun off s =>
  ⟨decode_timerRdWord off, exec_timerRd off s⟩

theorem decode_timerWrWord (off : BitVec 2) (d : Byte) : decode (0b000100#6 ++ off ++ d) = .ok (.timerWr off d) :=
  (congrArg decode (timerHead_append true off d)).trans
    ((decode_busWord_write _ d).trans (congrArg _ (decodeWrite_timer off d)))

theorem exec_timerWr (off : BitVec 2) (d : Byte) (s : State) : exec (.timerWr off d) s = .next (
    afterChain (Config.timerChain s.draws (s.trace ++ [.timerWrite off d])) { s with
      trace := s.trace ++ [.timerWrite off d], draws := s.draws + 1 }) := by
  change Host.Outcome.next (timerWriteAccess Config.env off d s) = _
  rw [timerWriteAccess, timerMayChain_eq]
  rfl

/-- Settles O27. -/
theorem timerWritePassesThrough : Obligations.TimerWritePassesThrough := fun off d s =>
  ⟨decode_timerWrWord off d, exec_timerWr off d s⟩

/-! ## The serial link (42_serial_link.md R107, R108, R111) -/

/-- Settles O43: the two branches of the gate, `l` and `CTRL[5]` both 1 or not. -/
theorem uartClockGatesTheNmi : Obligations.UartClockGatesTheNmi := by
  intro l s
  simp only [exec_uartClk, uartClock, nmiEn, Bool.and_eq_true]
  by_cases gated : l = true ∧ s.ctrl.getLsbD 5 = true
  · simp only [if_pos gated]
    rfl
  · simp only [if_neg gated, List.append_nil]
    rfl

theorem exec_serialIn (l : Bool) (s : State) : exec (.serialIn l) s = .next (
    afterUartChain (Config.uartChain s.draws (s.trace ++ [.line .uartRxd l])) { s with
      lines := { s.lines with uartRxd := l }, trace := s.trace ++ [.line .uartRxd l], draws := s.draws + 1 }) := by
  change Host.Outcome.next (emitToUart Config.env l s) = _
  rw [emitToUart_eq]
  rfl

theorem decode_serialInWord (l : Bool) : decode (0b100001110000000#15 ++ BitVec.ofBool l) = .ok (.serialIn l) := by
  cases l <;> rfl

/-- Settles O45: the emit with its chain in closed form, and each chained event the step of its own stimulus. -/
theorem serialInputIsForwarded : Obligations.SerialInputIsForwarded := fun l s =>
  ⟨decode_serialInWord l, exec_serialIn l s, rfl, fun _ _ => ⟨⟨_, rfl, rfl⟩, _, rfl, rfl⟩⟩

/-! ## The window gaps (20_memory.md R39) -/

/-- Settles O48, row by row. -/
theorem unmappedReadsReturnADraw : Obligations.UnmappedReadsReturnADraw := fun _ _ => ⟨rfl, rfl, rfl, rfl⟩

/-- Settles O49, row by row. -/
theorem unmappedWritesAreNoOps : Obligations.UnmappedWritesAreNoOps := fun _ _ _ => ⟨rfl, rfl, rfl, rfl⟩

end Sys2Proof.Machine
end

section
/-! PROOF. The DAC latch, the chip select and the voltages they apply (30_encoding.md R60, R69; 41_dac_chipselect.md R95 to R106). A
latch or mask write is one `replay` or one `write_chip_select`, so each is said once and the stimuli only name their operand. -/

namespace Sys2Proof.Machine

/-! ## `write_chip_select` field by field (R98) -/

theorem exec_cselWr (d : Byte) (s : State) :
    exec (.cselWr d) s = .next (writeChipSelect Config.env (maskOperand d) s) := rfl

/-- Everything `write_chip_select` leaves as it was. -/
theorem writeChipSelect_frame (e : Env) (mask : BitVec 6) (s : State) :
    ∃ volts out ct ph n, writeChipSelect e mask s = { s with
      csmask := mask, voiceVolt := volts, trace := out, calTimer := ct, calPhase := ph, draws := n } := by
  obtain ⟨ct, ph, n, hwrite, -⟩ := writeChipSelect_spec e mask s
  rw [hwrite, applyVoltage_eq]
  exact ⟨_, _, _, _, _, rfl⟩

@[simp] theorem writeChipSelect_csmask (e : Env) (mask : BitVec 6) (s : State) :
    (writeChipSelect e mask s).csmask = mask := by
  obtain ⟨volts, out, ct, ph, n, hframe⟩ := writeChipSelect_frame e mask s
  rw [hframe]

@[simp] theorem writeChipSelect_regsel (e : Env) (mask : BitVec 6) (s : State) :
    (writeChipSelect e mask s).regsel = s.regsel := by
  obtain ⟨volts, out, ct, ph, n, hframe⟩ := writeChipSelect_frame e mask s
  rw [hframe]

@[simp] theorem writeChipSelect_dac (e : Env) (mask : BitVec 6) (s : State) :
    (writeChipSelect e mask s).dac = s.dac := by
  obtain ⟨volts, out, ct, ph, n, hframe⟩ := writeChipSelect_frame e mask s
  rw [hframe]

theorem writeChipSelect_trace (e : Env) (mask : BitVec 6) (s : State) :
    (writeChipSelect e mask s).trace =
      s.trace ++ voltageEvents (risingEdges s.csmask mask) (kindOf s.regsel) (voltage s.dac) := by
  obtain ⟨ct, ph, n, hwrite, -⟩ := writeChipSelect_spec e mask s
  rw [hwrite, applyVoltage_eq]

theorem voltageAt_writeChipSelect (e : Env) (mask : BitVec 6) (s : State) (j : Voice) (k : Kind) :
    voltageAt (writeChipSelect e mask s) j k =
      if (risingEdges s.csmask mask).getLsbD j.val = true ∧ k = kindOf s.regsel then .exact (voltage s.dac)
      else voltageAt s j k := by
  obtain ⟨ct, ph, n, hwrite, -⟩ := writeChipSelect_spec e mask s
  rw [hwrite]
  exact voltageAt_applyVoltage _ _ _ _ s j

/-! ## `CSEL_WR` -/

/-- The mask takes the six low data bits (R64), one for each voice. -/
theorem maskOperand_getLsbD (d : Byte) (j : Voice) : (maskOperand d).getLsbD j.val = d.getLsbD j.val := by
  rw [maskOperand, BitVec.getLsbD_extractLsb', Nat.zero_add, decide_eq_true j.isLt, Bool.true_and]

theorem risingEdges_maskOperand (csmask : BitVec 6) (d : Byte) (j : Voice) :
    (risingEdges csmask (maskOperand d)).getLsbD j.val = (!csmask.getLsbD j.val && d.getLsbD j.val) := by
  rw [getLsbD_risingEdges, maskOperand_getLsbD]

/-- Settles O36: the rising edges, bit by bit, select the calls and the voltages. -/
theorem chipSelectAppliesTheRisingEdges : Obligations.ChipSelectAppliesTheRisingEdges := by
  intro d s
  refine ⟨_, exec_cselWr d s, writeChipSelect_csmask _ _ s, ?_, fun j k => ?_⟩
  · simp only [writeChipSelect_trace, voltageEvents, risingEdges_maskOperand]
  · rw [voltageAt_writeChipSelect, risingEdges_maskOperand]
    simp only [Bool.and_eq_true, Bool.not_eq_true', and_assoc]

/-- Settles O37: one recompute exactly when armed, and the mask, voltages and calls are all else that moves. -/
theorem chipSelectKeepsTheRest : Obligations.ChipSelectKeepsTheRest := by
  intro d s
  refine ⟨_, exec_cselWr d s, ?_⟩
  rw [writeChipSelect_trace]
  obtain ⟨ct, ph, n, hwrite, hidle, harmed⟩ := writeChipSelect_spec Config.env (maskOperand d) s
  rw [hwrite]
  refine ⟨by rw [applyVoltage_eq], hidle, fun h => ?_⟩
  obtain ⟨hct, hph, hn⟩ := harmed h
  exact ⟨hn, hph, hct⟩

theorem risingEdges_self (a : BitVec 6) : risingEdges a a = 0 := by simp [risingEdges, edges]

theorem voltageEvents_none (k : Kind) (v : Rat) : voltageEvents 0 k v = [] := by simp [voltageEvents]

/-- Settles O38: the second write meets the mask of the first, so no bit rises. -/
theorem chipSelectTwiceAppliesOnce : Obligations.ChipSelectTwiceAppliesOnce := by
  intro d s t u hs ht
  have first : t.csmask = maskOperand d := by
    rw [← Host.Outcome.next.inj hs, writeChipSelect_csmask]
  obtain rfl := Host.Outcome.next.inj ht
  have noEdge : risingEdges t.csmask (maskOperand d) = 0 := by rw [first, risingEdges_self]
  refine ⟨?_, ?_, fun j k => ?_⟩
  · rw [writeChipSelect_trace, noEdge, voltageEvents_none, List.append_nil]
  · rw [writeChipSelect_csmask, first]
  · rw [voltageAt_writeChipSelect, noEdge]
    simp

/-! ## `replay` field by field (R96) -/

/-- Everything `replay` leaves as it was. -/
theorem replay_frame (e : Env) (s : State) :
    ∃ volts out ct ph n, replay e s = { s with
      voiceVolt := volts, trace := out, calTimer := ct, calPhase := ph, draws := n } := by
  by_cases h : s.csmask = 0b111111#6
  · exact ⟨_, _, _, _, _, replay_all e s h⟩
  · obtain ⟨ct, ph, n, hreplay, -⟩ := replay_some e s h
    rw [hreplay, applyVoltage_eq]
    exact ⟨_, _, _, _, _, rfl⟩

@[simp] theorem replay_csmask (e : Env) (s : State) : (replay e s).csmask = s.csmask := by
  obtain ⟨volts, out, ct, ph, n, hframe⟩ := replay_frame e s
  rw [hframe]

@[simp] theorem replay_regsel (e : Env) (s : State) : (replay e s).regsel = s.regsel := by
  obtain ⟨volts, out, ct, ph, n, hframe⟩ := replay_frame e s
  rw [hframe]

theorem replay_trace (e : Env) {s : State} (h : s.csmask ≠ 0b111111#6) :
    (replay e s).trace = s.trace ++ voltageEvents s.csmask (kindOf s.regsel) (voltage s.dac) := by
  obtain ⟨ct, ph, n, hreplay, -⟩ := replay_some e s h
  rw [hreplay, applyVoltage_eq]

theorem voltageAt_replay (e : Env) {s : State} (h : s.csmask ≠ 0b111111#6) (j : Voice) (k : Kind) :
    voltageAt (replay e s) j k =
      if s.csmask.getLsbD j.val = true ∧ k = kindOf s.regsel then .exact (voltage s.dac) else voltageAt s j k := by
  obtain ⟨ct, ph, n, hreplay, -⟩ := replay_some e s h
  rw [hreplay]
  exact voltageAt_applyVoltage _ _ _ _ s j

/-! ## The DAC writes: a replay of the new latch -/

theorem exec_dachWr (d : Byte) (s : State) :
    exec (.dachWr d) s = .next (replay Config.env { s with dac := withHighHalf s.dac d }) := rfl

theorem exec_dacWrite {i : Instr} {d : Byte} (h : i = .dachWr d ∨ i = .daclWr d) (s : State) :
    ∃ latch, exec i s = .next (replay Config.env { s with dac := latch }) := by
  rcases h with rfl | rfl
  · exact ⟨_, exec_dachWr d s⟩
  · exact ⟨_, exec_daclWr d s⟩

/-- Settles O32: the replay's two cases, with the latch read after the write. -/
theorem dacWriteReplaysToTheEnabledVoices : Obligations.DacWriteReplaysToTheEnabledVoices := by
  intro d s i hi
  obtain ⟨latch, hexec⟩ := exec_dacWrite hi s
  refine ⟨_, hexec, ?_, fun hall => ?_⟩
  · rw [replay_dac]
    intro h
    exact ⟨replay_trace Config.env h, voltageAt_replay Config.env h⟩
  · rw [replay_all Config.env { s with dac := latch } hall]

/-- Settles O33: with every voice enabled nothing but the latch moves, otherwise the replay recomputes twice when armed. -/
theorem dacWriteKeepsTheRest : Obligations.DacWriteKeepsTheRest := by
  intro d s i hi
  obtain ⟨latch, hexec⟩ := exec_dacWrite hi s
  refine ⟨_, hexec, ?_⟩
  by_cases hall : s.csmask = 0b111111#6
  · rw [replay_all Config.env { s with dac := latch } hall]
    exact ⟨rfl, fun _ => ⟨rfl, rfl, rfl⟩, fun _ h => absurd hall h⟩
  · have calls := replay_trace Config.env (s := { s with dac := latch }) hall
    obtain ⟨ct, ph, n, hreplay, hidle, harmed⟩ := replay_some Config.env { s with dac := latch } hall
    rw [calls, hreplay]
    refine ⟨by rw [applyVoltage_eq], hidle, fun h _ => ?_⟩
    obtain ⟨hct, hph, hn⟩ := harmed h
    exact ⟨hn, hph, hct⟩

/-! ## The two halves of the latch (30_encoding.md R60) -/

@[simp] theorem withHighHalf_high (dac : BitVec 12) (data : Byte) :
    (withHighHalf dac data).extractLsb' 6 6 = dacHalf data :=
  BitVec.extractLsb'_append_eq_left

@[simp] theorem withHighHalf_low (dac : BitVec 12) (data : Byte) :
    (withHighHalf dac data).extractLsb' 0 6 = dac.extractLsb' 0 6 :=
  BitVec.extractLsb'_append_eq_right

/-- Two halves side by side are the high one shifted up and the low one. -/
theorem halves_append_eq_or (high low : BitVec 6) :
    high ++ low = (high.setWidth 12 <<< 6) ||| low.setWidth 12 := by
  apply BitVec.eq_of_getLsbD_eq
  intro i hi
  simp only [BitVec.getLsbD_append, BitVec.getLsbD_or, BitVec.getLsbD_shiftLeft, BitVec.getLsbD_setWidth]
  by_cases hlow : i < 6
  · simp [hlow, hi]
  · simp [hlow, hi, BitVec.getLsbD_of_ge low i (by omega), show i - 6 < 12 by omega]

theorem dacHalf_setWidth (data : Byte) : (dacHalf data).setWidth 12 = data.setWidth 12 >>> 2 := by
  revert data; decide

theorem dacHalf_setWidth_high (data : Byte) : (dacHalf data).setWidth 12 <<< 6 = (data.setWidth 12 <<< 4) &&& 0xFC0#12 := by
  revert data; decide

theorem lowHalf_setWidth (dac : BitVec 12) : (dac.extractLsb' 0 6).setWidth 12 = dac &&& 0x03F#12 := by
  apply BitVec.eq_of_toNat_eq
  simp only [BitVec.toNat_setWidth, BitVec.extractLsb'_toNat, BitVec.toNat_and, Nat.shiftRight_zero, BitVec.toNat_ofNat]
  rw [Nat.mod_eq_of_lt (by omega), show 0x03F % 2 ^ 12 = 2 ^ 6 - 1 from rfl, Nat.and_two_pow_sub_one_eq_mod]

theorem withHighHalf_eq_or (dac : BitVec 12) (data : Byte) :
    withHighHalf dac data = (dac &&& 0x03F#12) ||| ((data.setWidth 12 <<< 4) &&& 0xFC0#12) := by
  rw [withHighHalf, halves_append_eq_or, dacHalf_setWidth_high, lowHalf_setWidth, BitVec.or_comm]

/-- `data[1:0]` reaches nothing of the write's outcome. -/
theorem exec_dachWr_congr {d d' : Byte} (h : dacHalf d = dacHalf d') (s : State) :
    exec (.dachWr d) s = exec (.dachWr d') s := by
  rw [exec_dachWr, exec_dachWr, withHighHalf, withHighHalf, h]

/-- Settles O29: a replay keeps the latch, so the outcome's latch is the one with the new high half. -/
theorem dacHighHalfWrite : Obligations.DacHighHalfWrite := by
  intro d d' s
  refine ⟨⟨_, exec_dachWr d s, ?_, ?_, ?_⟩, fun h => exec_dachWr_congr h s⟩
  · exact (replay_dac _ _).trans (withHighHalf_eq_or s.dac d)
  · rw [replay_dac, withHighHalf_high, dacHalf]
  · rw [replay_dac, withHighHalf_low]

theorem withLowHalf_withHighHalf (dac : BitVec 12) (high low : Byte) :
    withLowHalf (withHighHalf dac high) low = dacHalf high ++ dacHalf low := by
  rw [withLowHalf, withHighHalf_high]

theorem withHighHalf_withLowHalf (dac : BitVec 12) (high low : Byte) :
    withHighHalf (withLowHalf dac low) high = dacHalf high ++ dacHalf low := by
  rw [withHighHalf, withLowHalf_low]

/-! ## Runs of half writes (R69, R106) -/

/-- From `s` to `t` the latch takes the value `latch`, and with every voice deselected nothing reaches a voice. -/
structure LoadsLatch (latch : BitVec 12) (s t : State) : Prop where
  dac : t.dac = latch
  csmask : t.csmask = s.csmask
  regsel : t.regsel = s.regsel
  volts : s.csmask = 0 → ∀ j k, voltageAt t j k = voltageAt s j k

theorem loadsLatch_replay (e : Env) (latch : BitVec 12) (s : State) :
    LoadsLatch latch s (replay e { s with dac := latch }) where
  dac := replay_dac _ _
  csmask := replay_csmask _ _
  regsel := replay_regsel _ _
  volts h j k := by
    rw [voltageAt_replay e (s := { s with dac := latch }) (by rw [h]; decide), h]
    simp [voltageAt]

theorem LoadsLatch.trans {a b : BitVec 12} {s t u : State} (h : LoadsLatch a s t) (h' : LoadsLatch b t u) :
    LoadsLatch b s u where
  dac := h'.dac
  csmask := h'.csmask.trans h.csmask
  regsel := h'.regsel.trans h.regsel
  volts hmask j k := (h'.volts (h.csmask.trans hmask) j k).trans (h.volts hmask j k)

theorem execAll_high_low (high low : Byte) (s : State) :
    ∃ t, execAll [.dachWr high, .daclWr low] s = .next t ∧ LoadsLatch (dacHalf high ++ dacHalf low) s t := by
  have first := loadsLatch_replay Config.env (withHighHalf s.dac high) s
  have second := loadsLatch_replay Config.env (withLowHalf (withHighHalf s.dac high) low)
    (replay Config.env { s with dac := withHighHalf s.dac high })
  rw [withLowHalf_withHighHalf] at second
  refine ⟨_, ?_, first.trans second⟩
  rw [execAll, exec_dachWr]
  simp only [execAll, exec_daclWr, first.dac, withLowHalf_withHighHalf]

theorem execAll_low_high (high low : Byte) (s : State) :
    ∃ t, execAll [.daclWr low, .dachWr high] s = .next t ∧ LoadsLatch (dacHalf high ++ dacHalf low) s t := by
  have first := loadsLatch_replay Config.env (withLowHalf s.dac low) s
  have second := loadsLatch_replay Config.env (withHighHalf (withLowHalf s.dac low) high)
    (replay Config.env { s with dac := withLowHalf s.dac low })
  rw [withHighHalf_withLowHalf] at second
  refine ⟨_, ?_, first.trans second⟩
  rw [execAll, exec_daclWr]
  simp only [execAll, exec_dachWr, first.dac, withHighHalf_withLowHalf]

/-- Settles O31: either order leaves the high half of the one byte beside the low half of the other. -/
theorem dacHalvesInEitherOrder : Obligations.DacHalvesInEitherOrder := by
  intro high low s
  obtain ⟨t, hrun, ht⟩ := execAll_high_low high low s
  obtain ⟨u, hrun', hu⟩ := execAll_low_high high low s
  refine ⟨t, u, hrun, hrun', ?_, hu.dac.trans ht.dac.symm⟩
  rw [ht.dac, halves_append_eq_or, dacHalf_setWidth, dacHalf_setWidth]

theorem dacHalf_append_zeros (half : BitVec 6) : dacHalf (half ++ 0#2) = half :=
  BitVec.extractLsb'_append_eq_left

theorem halves_of_latch (v : BitVec 12) : v.extractLsb' 6 6 ++ v.extractLsb' 0 6 = v := by
  rw [BitVec.extractLsb'_append_extractLsb'_eq_extractLsb' (by rfl)]
  exact BitVec.extractLsb'_eq_self

theorem execAll_dacset (v : BitVec 12) (s : State) : ∃ t, execAll (dacset v) s = .next t ∧ LoadsLatch v s t := by
  have halves := execAll_high_low (v.extractLsb' 6 6 ++ 0#2) (v.extractLsb' 0 6 ++ 0#2) s
  rwa [dacHalf_append_zeros, dacHalf_append_zeros, halves_of_latch] at halves

/-- Settles O41. -/
theorem dacsetLoadsTheLatch : Obligations.DacsetLoadsTheLatch := fun v s =>
  (execAll_dacset v s).imp fun _ ⟨hrun, ht⟩ => ⟨hrun, ht.dac, ht.csmask, ht.regsel⟩

/-- The last mask of VOICESET selects the one voice. -/
theorem maskOperand_oneVoice (i : Voice) : maskOperand (1#8 <<< i.val) = 1#6 <<< i.val := by
  revert i; decide

theorem oneVoice_getLsbD (i j : Voice) : (1#6 <<< i.val).getLsbD j.val = true ↔ j = i := by
  revert i j; decide

theorem regselOperand_setWidth (k : BitVec 3) : regselOperand (k.setWidth 8) = k := by
  revert k; decide

/-- Deselecting every voice applies nothing. -/
theorem voltageAt_deselect (e : Env) (s : State) (j : Voice) (k : Kind) : voltageAt (writeChipSelect e 0 s) j k = voltageAt s j k := by
  rw [voltageAt_writeChipSelect, risingEdges_to_zero]
  simp

/-- Settles O42: no voice is selected while the kind and the latch are set, and the last mask raises voice `i`'s bit alone. -/
theorem voicesetReachesOneParameter : Obligations.VoicesetReachesOneParameter := by
  intro i k v s
  obtain ⟨loaded, hload, ht⟩ :=
    execAll_dacset v { writeChipSelect Config.env 0 s with regsel := regselOperand (k.setWidth 8) }
  have maskOff : (writeChipSelect Config.env 0 s).csmask = 0 := writeChipSelect_csmask _ _ s
  have noVoice : loaded.csmask = 0 := ht.csmask.trans maskOff
  have selected : loaded.regsel = k := ht.regsel.trans (regselOperand_setWidth k)
  have kept (j : Voice) (k' : Kind) : voltageAt loaded j k' = voltageAt s j k' :=
    (ht.volts maskOff j k').trans (voltageAt_deselect Config.env s j k')
  refine ⟨writeChipSelect Config.env (maskOperand (1#8 <<< i.val)) loaded,
    execAll_append_eq_next.2 ⟨loaded, execAll_append_eq_next.2 ⟨_, rfl, hload⟩, rfl⟩, ?_, ?_, ?_, fun j k' => ?_⟩
  · rw [writeChipSelect_csmask, maskOperand_oneVoice]
  · rw [writeChipSelect_dac, ht.dac]
  · rw [writeChipSelect_regsel, selected]
  · simp only [voltageAt_writeChipSelect, noVoice, risingEdges_from_zero, maskOperand_oneVoice, oneVoice_getLsbD, selected,
      ht.dac, kept]

/-! ## The steps of the voltage (41_dac_chipselect.md R101) -/

theorem voltage_lt_voltage {d d' : BitVec 12} (h : d < d') : voltage d < voltage d' := by
  have below : (d.toNat : Rat) < d'.toNat := Nat.cast_lt.2 h
  rw [voltage_eq_div, voltage_eq_div]
  linarith

theorem voltage_succ {d : BitVec 12} (h : d ≠ 4095) : voltage (d + 1) - voltage d = 1 / 512 := by
  have next : (d + 1).toNat = d.toNat + 1 := by bv_omega
  rw [voltage_eq_div, voltage_eq_div, next]
  push_cast
  ring

theorem voltage_bounds (d : BitVec 12) : -4 ≤ voltage d ∧ voltage d ≤ 3998046875 / 1000000000 := by
  have low : (0 : Rat) ≤ d.toNat := Nat.cast_nonneg _
  have high : (d.toNat : Rat) ≤ 4095 := by exact_mod_cast Nat.le_of_lt_succ d.isLt
  rw [voltage_eq_div]
  constructor <;> linarith

theorem voltage_of_toNat {d : BitVec 12} {n : Nat} (h : d.toNat = n) : voltage d = (n : Rat) / 512 - 4 := by
  rw [voltage_eq_div, h]

/-- Settles O40: R100's quotient is linear in the latch. -/
theorem voltageRisesBySteps : Obligations.VoltageRisesBySteps := by
  refine ⟨fun d d' => voltage_lt_voltage, fun d => voltage_succ, voltage_bounds, ?_, ?_, ?_⟩
  · rw [voltage_of_toNat (n := 0) rfl]; norm_num
  · rw [voltage_of_toNat (n := 2048) rfl]; norm_num
  · rw [voltage_of_toNat (n := 4095) rfl]; norm_num

end Sys2Proof.Machine
end

section
/-! PROOF. The frequency a recompute selects, over the reals its read-backs are (40_counter_gate.md R81). -/

namespace Sys2Proof.Machine

/-! ## What a voice contributes -/

theorem readsBelow_gain_iff (x : ReadBack) :
    readsBelow x Config.gainThreshold = true ↔ ∃ g, ReadsReal .finalGain x g ∧ g < 10 := by
  have threshold : ((Config.anchor .finalGain : Rat) : ℝ) = 10 := by norm_num [Config.anchor, Config.gainThreshold]
  rw [← threshold]
  exact readsBelow_anchor .finalGain x

theorem readsAbove_resonance_iff (vp : Kind → ReadBack) :
    readsAbove (vp .filterResonance) Config.resonanceThreshold = true ↔ HighResonance vp := by
  have threshold : ((Config.anchor .filterResonance : Rat) : ℝ) = 9 / 10 := by
    norm_num [Config.anchor, Config.resonanceThreshold]
  rw [HighResonance, ← threshold]
  exact readsAbove_anchor .filterResonance (vp .filterResonance)

/-- R81's words and the loop's tests agree. -/
theorem contributes_iff (vp : Kind → ReadBack) (f : RealMark) :
    Contributes vp f ↔ readsBelow (vp .finalGain) Config.gainThreshold = true ∧ selectedFrequency vp = .num f := by
  rw [Contributes, readsBelow_gain_iff, selectedFrequency]
  by_cases high : HighResonance vp
  · simp [high, (readsAbove_resonance_iff vp).2 high]
  · simp [high, mt (readsAbove_resonance_iff vp).1 high]

theorem raiseMaximum_of_contributes {vp : Kind → ReadBack} {f : RealMark} (h : Contributes vp f) (maxf : RealMark) :
    raiseMaximum maxf vp = if maxf.pos < f.pos then f else maxf := by
  obtain ⟨below, selected⟩ := (contributes_iff vp f).1 h
  rw [raiseMaximum, if_pos below, selected]

theorem raiseMaximum_of_none {vp : Kind → ReadBack} (h : ∀ f, ¬ Contributes vp f) (maxf : RealMark) :
    raiseMaximum maxf vp = maxf := by
  unfold raiseMaximum
  split
  next below =>
    cases selected : selectedFrequency vp with
    | num f => exact absurd ((contributes_iff vp f).2 ⟨below, selected⟩) (h f)
    | notANumber => rfl
  next => rfl

/-! ## The running maximum -/

/-- `top` is `start` or one of the contributed frequencies, and none of these is above it. -/
structure IsMaximum (contributed : RealMark → Prop) (start top : RealMark) : Prop where
  above_start : start.pos ≤ top.pos
  above : ∀ f, contributed f → f.pos ≤ top.pos
  attained : top = start ∨ contributed top

theorem isMaximum_raiseMaximum (vp : Kind → ReadBack) (maxf : RealMark) :
    IsMaximum (Contributes vp) maxf (raiseMaximum maxf vp) := by
  by_cases h : ∃ f, Contributes vp f
  · obtain ⟨f, hf⟩ := h
    have only : ∀ g, Contributes vp g → g = f := fun g hg => by
      have same := ((contributes_iff vp g).1 hg).2.symm.trans ((contributes_iff vp f).1 hf).2
      exact ReadBack.num.inj same
    rw [raiseMaximum_of_contributes hf]
    split
    next lower => exact ⟨lower.le, fun g hg => (only g hg ▸ le_refl _), .inr hf⟩
    next notLower => exact ⟨le_refl _, fun g hg => only g hg ▸ not_lt.1 notLower, .inl rfl⟩
  · have none : ∀ f, ¬ Contributes vp f := fun f hf => h ⟨f, hf⟩
    rw [raiseMaximum_of_none none]
    exact ⟨le_refl _, fun f hf => absurd hf (none f), .inl rfl⟩

/-- R81's loop over any list of voices. -/
theorem isMaximum_fold (vp : Voice → Kind → ReadBack) (L : List Voice) (start : RealMark) :
    IsMaximum (fun f => ∃ i ∈ L, Contributes (vp i) f) start (L.foldl (fun maxf i => raiseMaximum maxf (vp i)) start) := by
  induction L generalizing start with
  | nil => exact ⟨le_refl _, nofun, .inl rfl⟩
  | cons i L ih =>
    have turn := isMaximum_raiseMaximum (vp i) start
    have rest := ih (raiseMaximum start (vp i))
    rw [List.foldl_cons]
    refine ⟨turn.above_start.trans rest.above_start, ?_, ?_⟩
    · rintro f ⟨j, hj, hf⟩
      rcases List.mem_cons.1 hj with rfl | hj
      · exact (turn.above f hf).trans rest.above_start
      · exact rest.above f ⟨j, hj, hf⟩
    · rcases rest.attained with same | ⟨j, hj, hf⟩
      · rw [same]
        exact turn.attained.imp_right fun hf => ⟨i, List.mem_cons_self, hf⟩
      · exact .inr ⟨j, List.mem_cons_of_mem i hj, hf⟩

theorem isMaximum_calibrationMaximum (vp : Voice → Kind → ReadBack) :
    IsMaximum (fun f => ∃ i ∈ Voice.all, Contributes (vp i) f) ⟨0⟩ (calibrationMaximum vp) :=
  isMaximum_fold vp Voice.all ⟨0⟩

theorem hertz_zero : (⟨0⟩ : RealMark).hertz = 0 :=
  (realAt_anchor 0).trans Rat.cast_zero

/-- Settles O28: the loop's result is the maximum, and `timerFor` restarts the timer exactly above 0.0 Hz. -/
theorem recomputeTakesTheHighestQualifyingFrequency : Obligations.RecomputeTakesTheHighestQualifyingFrequency := by
  refine ⟨fun vp => ?_, fun e s m hm => ⟨fun hpos => ?_, fun hstop => ?_⟩⟩
  · have top := isMaximum_calibrationMaximum vp
    refine ⟨?_, fun i f hf => (hertz_le_hertz _ _).2 (top.above f ⟨i, mem_voices i, hf⟩), fun hpos => ?_⟩
    · rw [← hertz_zero]
      exact (hertz_le_hertz _ _).2 top.above_start
    · rcases top.attained with zero | ⟨i, -, hf⟩
      · rw [zero, hertz_zero] at hpos
        exact absurd hpos (lt_irrefl _)
      · exact ⟨i, hf⟩
  · rw [recompute_eq, hm, timerFor_of_pos hpos]
  · rw [recompute_eq, hm, timerFor_of_not_pos (not_lt.2 hstop)]

end Sys2Proof.Machine
end

section
/-! PROOF. Which CPU accesses reach the block's window, at which offset, and as which stimulus (20_memory.md R37). -/

namespace Sys2Proof.Machine

/-! ## The mirror bits of an address -/

theorem testBit_withoutMirror (win : Window) (addr i : Nat) :
    (withoutMirror win addr).testBit i = (addr.testBit i && !win.mirror.testBit i) := by
  rw [withoutMirror, Nat.testBit_xor, Nat.testBit_and]
  cases addr.testBit i <;> cases win.mirror.testBit i <;> rfl

theorem withoutMirror_of_and_eq_zero {win : Window} {addr : Nat} (h : addr &&& win.mirror = 0) :
    withoutMirror win addr = addr := by
  rw [withoutMirror, h, Nat.xor_zero]

theorem withoutMirror_and_mirror (win : Window) (addr : Nat) : withoutMirror win addr &&& win.mirror = 0 := by
  apply Nat.eq_of_testBit_eq
  intro i
  rw [Nat.testBit_and, testBit_withoutMirror, Nat.zero_testBit]
  cases addr.testBit i <;> cases win.mirror.testBit i <;> rfl

theorem withoutMirror_congr {win : Window} {addr addr' : Nat}
    (h : ∀ i, win.mirror.testBit i = false → addr.testBit i = addr'.testBit i) :
    withoutMirror win addr = withoutMirror win addr' := by
  apply Nat.eq_of_testBit_eq
  intro i
  rw [testBit_withoutMirror, testBit_withoutMirror]
  cases hm : win.mirror.testBit i
  · rw [h i hm]
  · rw [Bool.not_true, Bool.and_false, Bool.and_false]

/-! ## The window's sixteen offsets -/

theorem windowOffset_eq (win : Window) (space : AddressSpace) (addr : Nat) :
    windowOffset win space addr =
      if space = win.space ∧ win.base ≤ withoutMirror win addr ∧ withoutMirror win addr ≤ win.base + 15 then
        some (BitVec.ofNat 4 (withoutMirror win addr - win.base)) else none := rfl

/-- An access reaches the offset at which its address, its mirror bits cleared, lies above the base. -/
theorem windowOffset_eq_some_iff {win : Window} {space : AddressSpace} {addr : Nat} {off : BitVec 4} :
    windowOffset win space addr = some off ↔ space = win.space ∧ withoutMirror win addr = win.base + off.toNat := by
  rw [windowOffset_eq]
  have hoff := off.isLt
  constructor
  · intro h
    split at h
    next inside =>
      obtain ⟨hspace, hlow, hhigh⟩ := inside
      obtain rfl := Option.some.inj h
      rw [BitVec.toNat_ofNat]
      exact ⟨hspace, by omega⟩
    next => cases h
  · rintro ⟨hspace, haddr⟩
    rw [if_pos ⟨hspace, by omega, by omega⟩, haddr, Nat.add_sub_cancel_left, BitVec.ofNat_toNat, BitVec.setWidth_eq]

theorem windowOffset_eq_none {win : Window} {space : AddressSpace} {addr : Nat}
    (h : space = win.space → withoutMirror win addr < win.base ∨ win.base + 15 < withoutMirror win addr) :
    windowOffset win space addr = none := by
  refine if_neg ?_
  rintro ⟨hspace, hlow, hhigh⟩
  have := h hspace
  omega

/-- R37's decode: which address reaches which offset, and that the mirror bits of an accessed address do not matter. -/
theorem windowOffset_rules (win : Window) (space : AddressSpace) (addr addr' : Nat) :
    (∀ off : BitVec 4,
      ((win.base + off.toNat) &&& win.mirror = 0 → windowOffset win win.space (win.base + off.toNat) = some off) ∧
      ((win.base + off.toNat) &&& win.mirror ≠ 0 → windowOffset win space addr ≠ some off)) ∧
    (addr &&& win.mirror = 0 → addr < win.base ∨ win.base + 15 < addr → windowOffset win space addr = none) ∧
    (space ≠ win.space → windowOffset win space addr = none) ∧
    ((∀ i, win.mirror.testBit i = false → addr.testBit i = addr'.testBit i) →
      windowOffset win space addr = windowOffset win space addr') := by
  refine ⟨fun off => ⟨fun h => ?_, fun h reached => ?_⟩, fun h outside => ?_, fun h => ?_, fun h => ?_⟩
  · exact windowOffset_eq_some_iff.2 ⟨rfl, withoutMirror_of_and_eq_zero h⟩
  · rw [← (windowOffset_eq_some_iff.1 reached).2, withoutMirror_and_mirror] at h
    exact h rfl
  · exact windowOffset_eq_none fun _ => by rwa [withoutMirror_of_and_eq_zero h]
  · exact windowOffset_eq_none fun hspace => absurd hspace h
  · rw [windowOffset_eq, windowOffset_eq, withoutMirror_congr h]

/-! ## What an access becomes -/

section
variable {win : Window} {space : AddressSpace} {addr : Nat}

theorem busStimulus_of_reached {off : BitVec 4} (h : windowOffset win space addr = some off) (write : Bool) (data : Byte) :
    busStimulus win space addr write data = some (busWord write off data) := by
  rw [busStimulus, h]
  rfl

theorem cpuAccess_of_reached {off : BitVec 4} (h : windowOffset win space addr = some off) (write : Bool) (data : Byte)
    (s : State) : cpuAccess win space addr write data s = supply (busWord write off data) s := by
  rw [cpuAccess, busStimulus_of_reached h]

theorem busStimulus_of_missed (h : windowOffset win space addr = none) (write : Bool) (data : Byte) :
    busStimulus win space addr write data = none := by
  rw [busStimulus, h]
  rfl

theorem cpuAccess_of_missed (h : windowOffset win space addr = none) (write : Bool) (data : Byte) (s : State) :
    cpuAccess win space addr write data s = s := by
  rw [cpuAccess, busStimulus_of_missed h]

end

/-- A word supplied to an empty inbox is the next step's. -/
theorem step_supply {s : State} {w : StimulusWord} {i : Instr} (hempty : s.inbox = []) (hw : decode w = .ok i) :
    step (supply w s) = exec i s := by
  have placed : (supply w s).inbox = w :: [] := by rw [supply_inbox, hempty, List.nil_append]
  rw [step_of_decode_ok placed hw, supply, ← hempty]

/-- Settles O50: the decode compares the address without its mirror bits, and an access that reaches an offset is that offset's bus
word. -/
theorem windowDecodesItsSixteenOffsets : Obligations.WindowDecodesItsSixteenOffsets := by
  refine ⟨windowOffset_rules, rfl, rfl, fun win space addr write data s => ⟨fun off reached => ?_, fun missed => ?_⟩⟩
  · obtain ⟨i, hi⟩ := decode_busWord_ok write off data
    refine ⟨busStimulus_of_reached reached write data, cpuAccess_of_reached reached write data s, i, hi, fun hempty => ?_⟩
    rw [cpuAccess_of_reached reached, step_supply hempty hi]
  · exact ⟨busStimulus_of_missed missed write data, cpuAccess_of_missed missed write data s⟩

end Sys2Proof.Machine
end

section
/-! PROOF. How the state follows from the output (10_state.md R9, R29, R30, R36 (e); 40_counter_gate.md R87; 41_dac_chipselect.md R105):
every operation but the reset accounts for its output, and what accounts for its output can be chained. -/

namespace Sys2Proof.Machine

/-! ## Accounting for an output -/

/-- From `s` to `t` the output is `out`, and it explains the lines, `NMI_OUT`, the flip-flop (as NOT CLK0), `C0OUT` and the voices.
Voltage calls occur in it only if `volts`, gain calls only if `gains`. -/
structure AccountsFor (volts gains : Bool) (out : History) (s t : State) : Prop where
  trace : t.trace = s.trace ++ out
  lines : ∀ ln, lineLevel ln t.lines = lastLevel ln out (lineLevel ln s.lines)
  nmiOut : t.nmiOut = lastLevel .nmi out s.nmiOut
  ff : (!t.ff) = lastLevel .clk0 out (!s.ff)
  c0out : lineLevels .gate1 out = [] → t.c0out = s.c0out
  voiceVolt : voltageCalls out = [] → t.voiceVolt = s.voiceVolt
  voiceGain : gainCalls out = [] → t.voiceGain = s.voiceGain
  noVoltageCalls : volts = false → voltageCalls out = []
  noGainCalls : gains = false → gainCalls out = []

/-- From `s` to `t` some output accounts for what it explains. -/
def Accounted (volts gains : Bool) (s t : State) : Prop := ∃ out, AccountsFor volts gains out s t

section
variable {volts gains : Bool}

theorem AccountsFor.append {a b : History} {s t u : State} (h : AccountsFor volts gains a s t)
    (h' : AccountsFor volts gains b t u) : AccountsFor volts gains (a ++ b) s u where
  trace := by rw [h'.trace, h.trace, List.append_assoc]
  lines ln := by rw [h'.lines, h.lines, lastLevel_append]
  nmiOut := by rw [h'.nmiOut, h.nmiOut, lastLevel_append]
  ff := by rw [h'.ff, h.ff, lastLevel_append]
  c0out hnil := by
    rw [lineLevels_append, List.append_eq_nil_iff] at hnil
    exact (h'.c0out hnil.2).trans (h.c0out hnil.1)
  voiceVolt hnil := by
    rw [voltageCalls_append, List.append_eq_nil_iff] at hnil
    exact (h'.voiceVolt hnil.2).trans (h.voiceVolt hnil.1)
  voiceGain hnil := by
    rw [gainCalls_append, List.append_eq_nil_iff] at hnil
    exact (h'.voiceGain hnil.2).trans (h.voiceGain hnil.1)
  noVoltageCalls hv := by rw [voltageCalls_append, h.noVoltageCalls hv, h'.noVoltageCalls hv, List.append_nil]
  noGainCalls hg := by rw [gainCalls_append, h.noGainCalls hg, h'.noGainCalls hg, List.append_nil]

theorem Accounted.trans {s t u : State} (h : Accounted volts gains s t) (h' : Accounted volts gains t u) :
    Accounted volts gains s u := by
  obtain ⟨a, ha⟩ := h
  obtain ⟨b, hb⟩ := h'
  exact ⟨a ++ b, ha.append hb⟩

/-- An operation with no output leaves all of it. -/
theorem Accounted.silent {s t : State} (trace : t.trace = s.trace) (lines : t.lines = s.lines) (nmiOut : t.nmiOut = s.nmiOut)
    (ff : t.ff = s.ff) (c0out : t.c0out = s.c0out) (voiceVolt : t.voiceVolt = s.voiceVolt)
    (voiceGain : t.voiceGain = s.voiceGain) : Accounted volts gains s t :=
  ⟨[], by rw [trace, List.append_nil], fun _ => by rw [lines]; rfl, nmiOut, by rw [ff]; rfl, fun _ => c0out, fun _ => voiceVolt,
    fun _ => voiceGain, fun _ => rfl, fun _ => rfl⟩

/-- An operation with no output may come first. -/
theorem Accounted.after_silent {s s' t : State} (h : Accounted volts gains s' t) (trace : s'.trace = s.trace)
    (lines : s'.lines = s.lines) (nmiOut : s'.nmiOut = s.nmiOut) (ff : s'.ff = s.ff) (c0out : s'.c0out = s.c0out)
    (voiceVolt : s'.voiceVolt = s.voiceVolt) (voiceGain : s'.voiceGain = s.voiceGain) : Accounted volts gains s t :=
  (Accounted.silent trace lines nmiOut ff c0out voiceVolt voiceGain).trans h

theorem Accounted.refl (s : State) : Accounted volts gains s s := .silent rfl rfl rfl rfl rfl rfl rfl

theorem Accounted.foldl {α : Type} {f : State → α → State} (h : ∀ s a, Accounted volts gains s (f s a)) (L : List α)
    (s : State) : Accounted volts gains s (L.foldl f s) := by
  induction L generalizing s with
  | nil => exact .refl s
  | cons a L ih => exact (h s a).trans (ih (f s a))

/-! ## The operations -/

theorem lineLevel_setLine (ln m : Line) (v : Bool) (l : Lines) :
    lineLevel m (setLine ln v l) = lastLevel m [.line ln v] (lineLevel m l) := by
  by_cases h : ln = m
  · subst h
    simp [lastLevel, lineLevelOf]
  · rw [lineLevel_setLine_other ln m v l (Ne.symm h)]
    simp [lastLevel, lineLevelOf, h]

/-- CLK0 and NMI follow a register each; every other line is driven by itself. -/
theorem accounted_emitLine {ln : Line} (hclk : ln ≠ .clk0) (hnmi : ln ≠ .nmi) (v : Bool) (s : State) :
    Accounted volts gains s (emitLine ln v s) :=
  ⟨[.line ln v], rfl, fun m => lineLevel_setLine ln m v s.lines, by simp [lastLevel, lineLevelOf, hnmi],
    by simp [lastLevel, lineLevelOf, hclk], fun _ => rfl, fun _ => rfl, fun _ => rfl, fun _ => rfl, fun _ => rfl⟩

theorem accounted_driveNmi (v : Bool) (s : State) : Accounted volts gains s (driveNmi v s) :=
  ⟨[.line .nmi v], rfl, fun m => lineLevel_setLine .nmi m v s.lines, rfl, rfl, fun _ => rfl, fun _ => rfl, fun _ => rfl,
    fun _ => rfl, fun _ => rfl⟩

theorem accounted_driveClk0 (v : Bool) (s : State) : Accounted volts gains s { emitLine .clk0 (!v) s with ff := v } :=
  ⟨[.line .clk0 (!v)], rfl, fun m => lineLevel_setLine .clk0 m (!v) s.lines, rfl, rfl, fun _ => rfl, fun _ => rfl, fun _ => rfl,
    fun _ => rfl, fun _ => rfl⟩

theorem accounted_timerCall {ev : OutEvent} (hline : ∀ ln, lineLevelOf ln ev = none) (hvolt : voltageCallOf ev = none)
    (hgain : gainCallOf ev = none) (s : State) : Accounted volts gains s (logCall ev s) :=
  have silent (ln : Line) (v : Bool) : lastLevel ln [ev] v = v := by simp [lastLevel, hline]
  ⟨[ev], rfl, fun ln => (silent ln _).symm, (silent _ _).symm, (silent _ _).symm, fun _ => rfl, fun _ => rfl, fun _ => rfl,
    fun _ => List.filterMap_cons_none hvolt, fun _ => List.filterMap_cons_none hgain⟩

theorem accounted_setOutputGain (g : Rat) (i : Voice) (s : State) : Accounted volts true s (setOutputGain g i s) :=
  ⟨[.setOutputGain i g], rfl, fun _ => rfl, rfl, rfl, fun _ => rfl, fun _ => rfl, nofun, fun _ => rfl, nofun⟩

theorem accounted_setVoltage (k : Kind) (v : Rat) (i : Voice) (s : State) : Accounted true gains s (setVoltage k v i s) :=
  ⟨[.setVoltage i k v], rfl, fun _ => rfl, rfl, rfl, fun _ => rfl, nofun, fun _ => rfl, nofun, fun _ => rfl⟩

theorem lastLevel_of_silent {ln : Line} {out : History} (h : lineLevels ln out = []) (v : Bool) : lastLevel ln out v = v := by
  rw [lastLevel, h]
  rfl

/-- What timer events raise drives GATE1 and IRQ, and `C0OUT` only with GATE1. -/
theorem accounted_afterTimer {c : Bool} {out : History} {s : State} (h : TimerRaised s.c0out c out) :
    Accounted volts gains s (afterTimer c out s) := by
  obtain ⟨heard, hc0⟩ := h
  have silent {ln : Line} (h1 : ln ≠ .gate1) (h2 : ln ≠ .irq) (v : Bool) : v = lastLevel ln out v :=
    (lastLevel_of_silent (lineLevels_of_timerOutput heard h1 h2) v).symm
  refine ⟨out, rfl, fun ln => ?_, silent (by decide) (by decide) _, silent (by decide) (by decide) _, hc0, fun _ => rfl,
    fun _ => rfl, fun _ => voltageCalls_of_timerOutput heard, fun _ => gainCalls_of_timerOutput heard⟩
  cases ln with
  | gate1 | irq => rfl
  | clk0 | gate0 | nmi | clkmon | dataSent | uartRxd => exact silent (by decide) (by decide) _

theorem accounted_afterChain (ch : TimerChain) (s : State) : Accounted volts gains s (afterChain ch s) :=
  accounted_afterTimer (timerRaised_chain ch s.c0out)

theorem accounted_timerMayChain (e : Env) (s : State) : Accounted volts gains s (timerMayChain e s) := by
  rw [timerMayChain_eq]
  exact (accounted_afterChain _ (nextDraw s)).after_silent rfl rfl rfl rfl rfl rfl rfl

theorem accounted_setFlipFlop (e : Env) (v : Bool) (s : State) : Accounted volts gains s (setFlipFlop e v s) := by
  rw [setFlipFlop_eq]
  have chained := accounted_afterChain (volts := volts) (gains := gains)
    (e.timerChain s.draws (s.trace ++ [.line .clk0 (!v)])) (nextDraw { emitLine .clk0 (!v) s with ff := v })
  exact (accounted_driveClk0 v s).trans (chained.after_silent rfl rfl rfl rfl rfl rfl rfl)

theorem accounted_out0Event (e : Env) (v : Bool) (s : State) : Accounted volts gains s (out0Event e v s) := by
  rw [out0Event_eq]
  refine .trans (accounted_afterTimer ⟨fun ev hev => ?_, by simp [lineLevelOf]⟩) (.silent rfl rfl rfl rfl rfl rfl rfl)
  rcases List.mem_cons.1 hev with rfl | hchain
  · rfl
  · exact (timerRaised_chain _ s.c0out).1 ev hchain

theorem voltageCalls_of_uartOutput {out : History} (h : ∀ ev ∈ out, isUartOutput ev = true) : voltageCalls out = [] := by
  refine List.filterMap_eq_nil_iff.2 fun ev hev => ?_
  have heard := h ev hev
  cases ev with
  | line => rfl
  | _ => cases heard

theorem gainCalls_of_uartOutput {out : History} (h : ∀ ev ∈ out, isUartOutput ev = true) : gainCalls out = [] := by
  refine List.filterMap_eq_nil_iff.2 fun ev hev => ?_
  have heard := h ev hev
  cases ev with
  | line => rfl
  | _ => cases heard

theorem accounted_afterUartChain (evs : List UartEvent) (s : State) : Accounted volts gains s (afterUartChain evs s) := by
  have heard := isUartOutput_chain evs
  have silent {ln : Line} (hln : ln ≠ .dataSent) (v : Bool) : v = lastLevel ln (uartOutput evs) v :=
    (lastLevel_of_silent (lineLevels_of_uartOutput heard hln) v).symm
  refine ⟨uartOutput evs, rfl, fun ln => ?_, silent (by decide) _, silent (by decide) _, fun _ => rfl, fun _ => rfl, fun _ => rfl,
    fun _ => voltageCalls_of_uartOutput heard, fun _ => gainCalls_of_uartOutput heard⟩
  cases ln with
  | dataSent => rfl
  | clk0 | gate0 | gate1 | irq | nmi | clkmon | uartRxd => exact silent (by decide) _

theorem accounted_emitToUart (e : Env) (v : Bool) (s : State) : Accounted volts gains s (emitToUart e v s) := by
  rw [emitToUart_eq]
  exact (accounted_emitLine (ln := .uartRxd) (by decide) (by decide) v s).trans
    ((accounted_afterUartChain _ (nextDraw (emitLine .uartRxd v s))).after_silent rfl rfl rfl rfl rfl rfl rfl)

theorem accounted_timerReadAccess (e : Env) (off : BitVec 2) (s : State) : Accounted volts gains s (timerReadAccess e off s) :=
  (accounted_timerCall (fun _ => rfl) rfl rfl s).trans
    ((accounted_timerMayChain e _).trans (.silent rfl rfl rfl rfl rfl rfl rfl))

theorem accounted_timerWriteAccess (e : Env) (off : BitVec 2) (data : Byte) (s : State) :
    Accounted volts gains s (timerWriteAccess e off data s) :=
  (accounted_timerCall (fun _ => rfl) rfl rfl s).trans (accounted_timerMayChain e _)

theorem accounted_calibrationTick (e : Env) (s : State) : Accounted volts gains s (calibrationTick e s) :=
  (accounted_setFlipFlop e _ { s with calPhase := s.calPhase + 1 }).after_silent rfl rfl rfl rfl rfl rfl rfl

theorem accounted_uartClock (l : Bool) (s : State) : Accounted volts gains s (uartClock l s) := by
  refine .trans ?_ (accounted_emitLine (by decide) (by decide) (!l) _)
  split
  · exact (accounted_driveNmi s.uartIrq { s with extClk := some l }).after_silent rfl rfl rfl rfl rfl rfl rfl
  · exact .silent rfl rfl rfl rfl rfl rfl rfl

/-! ## The chip select and the control write -/

theorem accounted_applyVoltage (rise : BitVec 6) (k : Kind) (v : Rat) (s : State) :
    Accounted true gains s (applyVoltage rise k v s) :=
  .foldl (fun t i => by split; exacts [accounted_setVoltage k v i t, .refl t]) Voice.all s

theorem accounted_writeChipSelect (e : Env) (mask : BitVec 6) (s : State) :
    Accounted true gains s (writeChipSelect e mask s) := by
  obtain ⟨ct, ph, n, hwrite, -⟩ := writeChipSelect_spec e mask s
  rw [hwrite]
  exact (accounted_applyVoltage _ _ _ s).trans (.silent rfl rfl rfl rfl rfl rfl rfl)

theorem accounted_replay (e : Env) (s : State) : Accounted true gains s (replay e s) := by
  unfold replay
  split
  · exact (accounted_writeChipSelect e 0 s).trans (accounted_writeChipSelect e s.csmask _)
  · exact .refl s

theorem accounted_writeDacHalf (e : Env) (off : BitVec 4) (data : Byte) (s : State) :
    Accounted true gains s (writeDacHalf e off data s) :=
  (accounted_replay e { s with
    dac := if off.getLsbD 0 then withLowHalf s.dac data else withHighHalf s.dac data }).after_silent rfl rfl rfl rfl rfl rfl rfl

theorem accounted_step1Audio (diff data : Byte) (s : State) : Accounted volts true s (step1Audio diff data s) := by
  unfold step1Audio
  split
  · exact .foldl (fun t i => accounted_setOutputGain _ i t) Voice.all s
  · exact .refl s

theorem accounted_step2Arm (e : Env) (diff data : Byte) (s : State) : Accounted volts gains s (step2Arm e diff data s) := by
  obtain ⟨a, ct, ph, harm, -⟩ := step2Arm_spec e diff data s
  rw [harm]
  exact .silent rfl rfl rfl rfl rfl rfl rfl

theorem accounted_step4FlipFlop (e : Env) (data : Byte) (s : State) : Accounted volts gains s (step4FlipFlop e data s) := by
  unfold step4FlipFlop
  split
  · exact accounted_setFlipFlop e false s
  split
  · exact accounted_setFlipFlop e true s
  · exact .refl s

theorem accounted_step5Nmi (diff data : Byte) (s : State) : Accounted volts gains s (step5Nmi diff data s) := by
  unfold step5Nmi
  split
  · exact accounted_driveNmi false s
  · exact .refl s

theorem accounted_step3Gate0 (e : Env) (data : Byte) (s : State) : Accounted volts gains s (step3Gate0 e data s) :=
  (accounted_emitLine (by decide) (by decide) _ s).trans (accounted_timerMayChain e _)

theorem accounted_controlWrite (e : Env) (data : Byte) (s : State) : Accounted volts true s (controlWrite e data s) :=
  have steps := (accounted_step1Audio (volts := volts) (edges s.ctrl data) data { s with ctrl := data }).trans <|
    (accounted_step2Arm e _ data _).trans <| (accounted_step3Gate0 e data _).trans <|
    (accounted_step4FlipFlop e data _).trans (accounted_step5Nmi _ data _)
  steps.after_silent rfl rfl rfl rfl rfl rfl rfl

end

/-! ## Every stimulus but the reset -/

/-- The stimuli that set voltages (41_dac_chipselect.md R105). -/
def setsVoltages : Instr → Bool
  | .dachWr _ | .daclWr _ | .cselWr _ => true
  | _ => false

/-- The stimuli that set output gains (R105). -/
def setsGains : Instr → Bool
  | .ctrlWr _ => true
  | _ => false

theorem exec_calTick_eq_next {s t : State} (h : exec .calTick s = .next t) :
    (∃ f, s.calTimer = .running f) ∧ t = calibrationTick Config.env s := by
  cases htimer : s.calTimer with
  | stopped => rw [calTickWhileStoppedIsRefused s htimer] at h; cases h
  | running f => rw [exec_calTick_running htimer] at h; exact ⟨⟨f, rfl⟩, (Host.Outcome.next.inj h).symm⟩

theorem exec_accounted {i : Instr} {s t : State} (hi : i ≠ .reset) (h : exec i s = .next t) :
    Accounted (setsVoltages i) (setsGains i) s t := by
  cases i with
  | reset => exact absurd rfl hi
  | calTick => exact (exec_calTick_eq_next h).2 ▸ accounted_calibrationTick _ s
  | timerRd off => exact Host.Outcome.next.inj h ▸ accounted_timerReadAccess _ off s
  | timerWr off data => exact Host.Outcome.next.inj h ▸ accounted_timerWriteAccess _ off data s
  | ctrlWr data => exact Host.Outcome.next.inj h ▸ accounted_controlWrite _ data s
  | dachWr data | daclWr data => exact Host.Outcome.next.inj h ▸ accounted_writeDacHalf _ _ data s
  | cselWr data => exact Host.Outcome.next.inj h ▸ accounted_writeChipSelect _ _ s
  | out0 l => exact Host.Outcome.next.inj h ▸ accounted_out0Event _ l s
  | out2 l | uartTxd l => exact Host.Outcome.next.inj h ▸ accounted_emitLine (by decide) (by decide) l s
  | uartClk l => exact Host.Outcome.next.inj h ▸ accounted_uartClock l s
  | serialIn l => exact Host.Outcome.next.inj h ▸ accounted_emitToUart _ l s
  | stateRd | regselWr | openRd4 | openRd9 | openRdA | openRdC | ignoreWr4 | ignoreWr9 | ignoreWrD | ignoreWrF | uartIrq =>
    exact Host.Outcome.next.inj h ▸ .silent rfl rfl rfl rfl rfl rfl rfl

theorem newOutput_of_silent {s t : State} (h : t.trace = s.trace) : newOutput s t = [] :=
  newOutput_of_trace (h.trans (List.append_nil _).symm)

theorem newOutput_reset {s t : State} (h : exec .reset s = .next t) : newOutput s t = [] :=
  newOutput_of_silent (Host.Outcome.next.inj h ▸ rfl)

/-- Settles O57. -/
theorem lineLevelsAreTheLastEmits : Obligations.LineLevelsAreTheLastEmits := by
  intro i s t h
  by_cases hi : i = .reset
  · subst hi
    refine ⟨?_, fun hne => absurd rfl hne⟩
    rw [newOutput_reset h, List.append_nil]
    exact Host.Outcome.next.inj h ▸ rfl
  · obtain ⟨out, acc⟩ := exec_accounted hi h
    rw [newOutput_of_trace acc.trace]
    exact ⟨acc.trace, fun _ => ⟨acc.lines, acc.nmiOut⟩⟩

/-- Settles O54. -/
theorem counterOutChangesOnlyByOut0 : Obligations.CounterOutChangesOnlyByOut0 := by
  intro i s t hi h
  obtain ⟨out, acc⟩ := exec_accounted hi h
  rw [newOutput_of_trace acc.trace]
  exact acc.c0out

theorem setsVoltages_iff (i : Instr) : setsVoltages i = true ↔ ∃ d, i = .dachWr d ∨ i = .daclWr d ∨ i = .cselWr d := by
  cases i <;> simp [setsVoltages]

theorem setsGains_iff (i : Instr) : setsGains i = true ↔ ∃ d, i = .ctrlWr d := by
  cases i <;> simp [setsGains]

/-- Settles O55: the reset calls no voice, and every other stimulus accounts for its calls. -/
theorem voiceWriters : Obligations.VoiceWriters := by
  intro i s t h
  by_cases hi : i = .reset
  · subst hi
    rw [newOutput_reset h]
    exact ⟨fun hne => absurd rfl hne, fun hne => absurd rfl hne, fun hne => absurd rfl hne, fun hne => absurd rfl hne⟩
  · obtain ⟨out, acc⟩ := exec_accounted hi h
    rw [newOutput_of_trace acc.trace, ← setsVoltages_iff, ← setsGains_iff]
    exact ⟨fun hne => Bool.eq_true_of_not_eq_false fun hv => hne (acc.noVoltageCalls hv),
      fun hne => Bool.eq_true_of_not_eq_false fun hg => hne (acc.noGainCalls hg), fun _ => acc.voiceVolt, fun _ => acc.voiceGain⟩

/-! ## A line and the register it follows -/

theorem lastLevel_of_emit {ln : Line} {out : History} (h : lineLevels ln out ≠ []) (v v' : Bool) :
    lastLevel ln out v = lastLevel ln out v' := by
  rw [lastLevel, lastLevel, List.getLastD_eq_getLast?, List.getLastD_eq_getLast?, List.getLast?_eq_some_getLast h]
  rfl

/-- Settles O56: the line and NOT flip-flop both take the last level emitted on CLK0, or both stay. -/
theorem clockLineFollowsTheFlipFlop : Obligations.ClockLineFollowsTheFlipFlop := by
  intro i s t h
  by_cases hi : i = .reset
  · subst hi
    rw [newOutput_reset h]
    exact ⟨fun hne => absurd rfl hne, fun hne => absurd rfl hne⟩
  · obtain ⟨out, acc⟩ := exec_accounted hi h
    have line : t.lines.clk0 = lastLevel .clk0 out s.lines.clk0 := acc.lines .clk0
    rw [newOutput_of_trace acc.trace, line, acc.ff]
    exact ⟨fun hemit => lastLevel_of_emit hemit _ _, fun _ hs => by rw [hs]⟩

/-- Settles O60: the line and `NMI_OUT` both take the last level emitted on NMI, or both stay. -/
theorem nmiLineFollowsNmiOut : Obligations.NmiLineFollowsNmiOut := by
  intro i s t h
  by_cases hi : i = .reset
  · subst hi
    rw [newOutput_reset h]
    exact ⟨fun hne => absurd rfl hne, fun hne => absurd rfl hne, fun hne => absurd rfl hne⟩
  · obtain ⟨out, acc⟩ := exec_accounted hi h
    have line : t.lines.nmi = lastLevel .nmi out s.lines.nmi := acc.lines .nmi
    rw [newOutput_of_trace acc.trace, line, acc.nmiOut]
    exact ⟨fun hemit => lastLevel_of_emit hemit _ _, fun _ hs => by rw [hs],
      fun _ hmoved hsilent => hmoved (lastLevel_of_silent hsilent _)⟩

end Sys2Proof.Machine
end

section
/-! PROOF. The control write as a whole: what it stores and keeps, the order of its output, its gain calls, and bit 1's edges
(40_counter_gate.md R71 to R73). `controlWrite_spec` gives the next state; the bits of the edge set are read off here. -/

namespace Sys2Proof.Machine

/-! ## The output, bit by bit -/

theorem gainEvents_edges (old data : Byte) : gainEvents (edges old data) data =
    if old.getLsbD 0 = data.getLsbD 0 then []
    else Voice.all.map fun i => .setOutputGain i (if data.getLsbD 0 then 1 else 0) := by
  rw [gainEvents, audioEn_edges, audioEn]
  cases old.getLsbD 0 <;> cases data.getLsbD 0 <;> rfl

theorem nmiClearEvents_edges (old data : Byte) : nmiClearEvents (edges old data) data =
    if old.getLsbD 5 = true ∧ data.getLsbD 5 = false then [.line .nmi false] else [] := by
  split
  next h => exact nmiClearEvents_of_fall h
  next h => exact nmiClearEvents_of_not_fall h

theorem controlWrite_trace (e : Env) (data : Byte) (s : State) :
    (controlWrite e data s).trace = s.trace ++ (gainEvents (edges s.ctrl data) data ++ [.line .gate0 (gate0Bit data)] ++
      timerOutput (gateChain e data s) ++ forcedEvents data ++ timerOutput (clockChain e data s) ++
      nmiClearEvents (edges s.ctrl data) data) := by
  obtain ⟨g, a, ct, ph, he, -⟩ := controlWrite_spec e data s
  rw [he]

/-- Settles O15: the output is that of the five steps in order, and without a forcing bit there is no CLK0 emit to chain to. -/
theorem controlWriteEffectsInOrder : Obligations.ControlWriteEffectsInOrder := by
  intro d s
  refine ⟨_, exec_ctrlWr d s, (timerRaised_controlWrite Config.env d s).1, fun hclear hpreset => ?_, ?_⟩
  · rw [clockChain, if_pos (forcedEvents_of_neither hclear hpreset)]
  · rw [controlWrite_trace, gainEvents_edges, nmiClearEvents_edges]
    simp only [List.append_assoc]
    rfl

/-! ## What it stores and keeps -/

/-- Settles O14: the frame is read off the next state, GATE1, IRQ and an unchained `C0OUT` off the output. -/
theorem controlWriteStoresAndKeepsTheRest : Obligations.ControlWriteStoresAndKeepsTheRest := by
  intro d s
  obtain ⟨out, acc⟩ := accounted_controlWrite (volts := false) Config.env d s
  have gate1 := acc.lines .gate1
  have irq := acc.lines .irq
  have c0out := acc.c0out
  rw [← newOutput_of_trace acc.trace] at gate1 irq c0out
  refine ⟨_, exec_ctrlWr d s, ?_⟩
  obtain ⟨g, a, ct, ph, he, -⟩ := controlWrite_spec Config.env d s
  rw [he] at gate1 irq c0out ⊢
  exact ⟨rfl, rfl, rfl, rfl, rfl, rfl, rfl, rfl, rfl, rfl, rfl, rfl, gate1, irq, c0out, rfl, rfl⟩

/-! ## The gain calls (R72) -/

/-- Only step 1 calls a gain. -/
theorem gainCalls_controlWrite (e : Env) (data : Byte) (s : State) :
    gainCalls (newOutput s (controlWrite e data s)) = gainCalls (gainEvents (edges s.ctrl data) data) := by
  have chainCalls (ch : TimerChain) : gainCalls (timerOutput ch) = [] := gainCalls_of_timerOutput (timerRaised_chain ch s.c0out).1
  have gateCalls : gainCalls [.line .gate0 (gate0Bit data)] = [] := rfl
  rw [newOutput_of_trace (controlWrite_trace e data s)]
  simp only [gainCalls_append, chainCalls, gateCalls, gainCalls_forcedEvents, gainCalls_nmiClearEvents, List.append_nil]

theorem audioEn_edges_iff (old data : Byte) : audioEn (edges old data) = true ↔ old.getLsbD 0 ≠ data.getLsbD 0 := by
  rw [audioEn_edges, bne_iff_ne]

/-- Settles O16. -/
theorem controlWriteAudioGain : Obligations.ControlWriteAudioGain := by
  intro d s
  refine ⟨_, exec_ctrlWr d s, ?_⟩
  rw [gainCalls_controlWrite, gainEvents_edges]
  obtain ⟨g, a, ct, ph, he, hkept, hset, -⟩ := controlWrite_spec Config.env d s
  rw [he]
  refine ⟨fun same => ?_, fun changed => ?_⟩
  · have noEdge : audioEn (edges s.ctrl d) = false := by
      rw [audioEn_edges, same, bne_self_eq_false]
    rw [if_pos same]
    exact ⟨rfl, fun i => congrArg (·[i]) (hkept noEdge)⟩
  · rw [if_neg changed]
    exact ⟨by simp [gainCalls, gainCallOf, Voice.all], hset ((audioEn_edges_iff s.ctrl d).2 changed)⟩

/-! ## Bit 1's edges (R73) -/

theorem gate0Bit_edges_iff (old data : Byte) : gate0Bit (edges old data) = true ↔ old.getLsbD 1 ≠ data.getLsbD 1 := by
  rw [gate0Bit_edges, bne_iff_ne]

/-- Settles O17, an edge of bit 1 at a time. -/
theorem controlWriteArmsAndDisarms : Obligations.ControlWriteArmsAndDisarms := by
  intro d s
  refine ⟨_, exec_ctrlWr d s, ?_⟩
  rw [← gainEvents_edges]
  obtain ⟨g, a, ct, ph, he, -, -, hnone, hfall, hrearm, hrise⟩ := controlWrite_spec Config.env d s
  rw [he]
  have edge (hold : Bool) (hnew : Bool) (h : s.ctrl.getLsbD 1 = hold) (h' : d.getLsbD 1 = hnew) (hne : hold ≠ hnew) :
      gate0Bit (edges s.ctrl d) = true := (gate0Bit_edges_iff s.ctrl d).2 (by rw [h, h']; exact hne)
  refine ⟨fun same => hnone ?_, fun h h' => hfall (edge _ _ h h' (by decide)) h',
    fun h h' => hrearm (edge _ _ h h' (by decide)) h', fun h h' => hrise (edge _ _ h h' (by decide)) h'⟩
  rw [gate0Bit_edges, same, bne_self_eq_false]

end Sys2Proof.Machine
end

section
/-! PROOF. Who writes the block's registers (10_state.md R15 to R29), and the invariants every step keeps (R36). Most stimuli write no
register; each of the others has its next state from its own law. -/

namespace Sys2Proof.Machine

/-! ## The stimuli that write no register -/

/-- From `s` to `t` no register, internal bit or waiting stimulus changes. -/
structure SameRegisters (s t : State) : Prop where
  ctrl : t.ctrl = s.ctrl
  ff : t.ff = s.ff
  calArmed : t.calArmed = s.calArmed
  calTimer : t.calTimer = s.calTimer
  calPhase : t.calPhase = s.calPhase
  dac : t.dac = s.dac
  regsel : t.regsel = s.regsel
  csmask : t.csmask = s.csmask
  uartIrq : t.uartIrq = s.uartIrq
  nmiOut : t.nmiOut = s.nmiOut
  extClk : t.extClk = s.extClk
  inbox : t.inbox = s.inbox

/-- The stimuli with a register, or an internal bit but `C0OUT`, to write. -/
def writesRegister : Instr → Bool
  | .ctrlWr _ | .dachWr _ | .daclWr _ | .regselWr _ | .cselWr _ | .reset | .calTick | .uartClk _ | .uartIrq _ | .serialIn _ => true
  | _ => false

theorem exec_sameRegisters {i : Instr} (hi : writesRegister i = false) {s t : State} (h : exec i s = .next t) :
    SameRegisters s t := by
  cases i with
  | ctrlWr | dachWr | daclWr | regselWr | cselWr | reset | calTick | uartClk | uartIrq | serialIn => cases hi
  | timerRd off =>
    rw [exec_timerRd] at h
    exact Host.Outcome.next.inj h ▸ ⟨rfl, rfl, rfl, rfl, rfl, rfl, rfl, rfl, rfl, rfl, rfl, rfl⟩
  | timerWr off data =>
    rw [exec_timerWr] at h
    exact Host.Outcome.next.inj h ▸ ⟨rfl, rfl, rfl, rfl, rfl, rfl, rfl, rfl, rfl, rfl, rfl, rfl⟩
  | out0 l =>
    rw [exec_out0] at h
    exact Host.Outcome.next.inj h ▸ ⟨rfl, rfl, rfl, rfl, rfl, rfl, rfl, rfl, rfl, rfl, rfl, rfl⟩
  | stateRd | openRd4 | openRd9 | openRdA | openRdC | ignoreWr4 | ignoreWr9 | ignoreWrD | ignoreWrF | out2 | uartTxd =>
    exact Host.Outcome.next.inj h ▸ ⟨rfl, rfl, rfl, rfl, rfl, rfl, rfl, rfl, rfl, rfl, rfl, rfl⟩

/-! ## The stimuli that write one -/

theorem exec_dachWr_frame {d : Byte} {s t : State} (h : exec (.dachWr d) s = .next t) :
    ∃ volts out ct ph n, t = { s with
      dac := withHighHalf s.dac d, voiceVolt := volts, trace := out, calTimer := ct, calPhase := ph, draws := n } := by
  obtain ⟨volts, out, ct, ph, n, hreplay⟩ := replay_frame Config.env { s with dac := withHighHalf s.dac d }
  rw [exec_dachWr, hreplay] at h
  exact ⟨volts, out, ct, ph, n, (Host.Outcome.next.inj h).symm⟩

theorem exec_daclWr_frame {d : Byte} {s t : State} (h : exec (.daclWr d) s = .next t) :
    ∃ volts out ct ph n, t = { s with
      dac := withLowHalf s.dac d, voiceVolt := volts, trace := out, calTimer := ct, calPhase := ph, draws := n } := by
  obtain ⟨volts, out, ct, ph, n, hreplay⟩ := replay_frame Config.env { s with dac := withLowHalf s.dac d }
  rw [exec_daclWr, hreplay] at h
  exact ⟨volts, out, ct, ph, n, (Host.Outcome.next.inj h).symm⟩

theorem exec_cselWr_frame {d : Byte} {s t : State} (h : exec (.cselWr d) s = .next t) :
    ∃ volts out ct ph n, t = { s with
      csmask := maskOperand d, voiceVolt := volts, trace := out, calTimer := ct, calPhase := ph, draws := n } := by
  obtain ⟨volts, out, ct, ph, n, hwrite⟩ := writeChipSelect_frame Config.env (maskOperand d) s
  rw [exec_cselWr, hwrite] at h
  exact ⟨volts, out, ct, ph, n, (Host.Outcome.next.inj h).symm⟩

theorem exec_calTick_frame {s t : State} (h : exec .calTick s = .next t) :
    ∃ f c l out n, s.calTimer = .running f ∧ t = { s with
      ff := s.ctrl.getLsbD 3, calPhase := s.calPhase + 1, c0out := c, lines := l, trace := out, draws := n } := by
  obtain ⟨⟨f, hf⟩, -⟩ := exec_calTick_eq_next h
  rw [calTickSamplesControlBit3 s f hf] at h
  exact ⟨f, _, _, _, _, hf, (Host.Outcome.next.inj h).symm⟩

theorem exec_uartClk_frame {l : Bool} {s t : State} (h : exec (.uartClk l) s = .next t) :
    ∃ ln out, t = { s with
      nmiOut := if l = true ∧ s.ctrl.getLsbD 5 = true then s.uartIrq else s.nmiOut
      lines := ln, extClk := some l, trace := out } := by
  rw [uartClockGatesTheNmi] at h
  exact ⟨_, _, (Host.Outcome.next.inj h).symm⟩

theorem exec_serialIn_frame {l : Bool} {s t : State} (h : exec (.serialIn l) s = .next t) :
    ∃ q ln out n, t = { s with uartIrq := q, lines := ln, trace := out, draws := n } := by
  rw [exec_serialIn] at h
  exact ⟨_, _, _, _, (Host.Outcome.next.inj h).symm⟩

/-! ## Every register after every stimulus -/

/-- `NMI_OUT` after a stimulus (42_serial_link.md R115). -/
def nmiOutAfter (i : Instr) (s : State) : Bool :=
  match i with
  | .uartClk l => if l = true ∧ s.ctrl.getLsbD 5 = true then s.uartIrq else s.nmiOut
  | .ctrlWr d => if s.ctrl.getLsbD 5 = true ∧ d.getLsbD 5 = false then false else s.nmiOut
  | .reset => false
  | _ => s.nmiOut

/-- The flip-flop after a stimulus (40_counter_gate.md R92). -/
def ffAfter (i : Instr) (s : State) : Bool :=
  match i with
  | .ctrlWr d => forcedFlipFlop d s.ff
  | .calTick => s.ctrl.getLsbD 3
  | .reset => false
  | _ => s.ff

/-- `CTRL` after a stimulus (10_state.md R18). -/
def ctrlAfter (i : Instr) (s : State) : BitVec 8 :=
  match i with
  | .ctrlWr d => d
  | .reset => 0
  | _ => s.ctrl

/-- `REGSEL` after a stimulus (R21). -/
def regselAfter (i : Instr) (s : State) : BitVec 3 :=
  match i with
  | .regselWr d => regselOperand d
  | .reset => 0
  | _ => s.regsel

/-- `CSMASK` after a stimulus (R22). -/
def csmaskAfter (i : Instr) (s : State) : BitVec 6 :=
  match i with
  | .cselWr d => maskOperand d
  | .reset => 0
  | _ => s.csmask

/-- `DAC` after a stimulus (R20). -/
def dacAfter (i : Instr) (s : State) : BitVec 12 :=
  match i with
  | .dachWr d => withHighHalf s.dac d
  | .daclWr d => withLowHalf s.dac d
  | .reset => 0
  | _ => s.dac

/-- What a stimulus leaves in each register, and who may write `UART_IRQ` and `CAL_ARMED`. -/
structure RegistersAfter (i : Instr) (s t : State) : Prop where
  nmiOut : t.nmiOut = nmiOutAfter i s
  ff : t.ff = ffAfter i s
  ctrl : t.ctrl = ctrlAfter i s
  regsel : t.regsel = regselAfter i s
  csmask : t.csmask = csmaskAfter i s
  dac : t.dac = dacAfter i s
  uartIrq : t.uartIrq ≠ s.uartIrq → (∃ l, i = .uartIrq l) ∨ (∃ l, i = .serialIn l) ∨ i = .reset
  calArmed : t.calArmed ≠ s.calArmed → (∃ d, i = .ctrlWr d) ∨ i = .reset
  inbox : t.inbox = s.inbox

theorem RegistersAfter.of_kept {i : Instr} {s t : State} (nmiOut : t.nmiOut = nmiOutAfter i s) (ff : t.ff = ffAfter i s)
    (ctrl : t.ctrl = ctrlAfter i s) (regsel : t.regsel = regselAfter i s) (csmask : t.csmask = csmaskAfter i s)
    (dac : t.dac = dacAfter i s) (uartIrq : t.uartIrq = s.uartIrq) (calArmed : t.calArmed = s.calArmed)
    (inbox : t.inbox = s.inbox) : RegistersAfter i s t :=
  ⟨nmiOut, ff, ctrl, regsel, csmask, dac, fun h => absurd uartIrq h, fun h => absurd calArmed h, inbox⟩

theorem registersAfter_controlWrite (d : Byte) (s : State) : RegistersAfter (.ctrlWr d) s (controlWrite Config.env d s) := by
  have nmi := controlWrite_nmiOut Config.env d s
  simp only [nmiEn_falls_iff] at nmi
  obtain ⟨g, a, ct, ph, he, -⟩ := controlWrite_spec Config.env d s
  rw [he] at nmi ⊢
  exact ⟨nmi, rfl, rfl, rfl, rfl, rfl, fun h => absurd rfl h, fun _ => .inl ⟨d, rfl⟩, rfl⟩

theorem exec_registersAfter {i : Instr} {s t : State} (h : exec i s = .next t) : RegistersAfter i s t := by
  cases i with
  | ctrlWr d => exact Host.Outcome.next.inj h ▸ registersAfter_controlWrite d s
  | reset =>
    obtain rfl := Host.Outcome.next.inj h
    exact ⟨rfl, rfl, rfl, rfl, rfl, rfl, fun _ => .inr (.inr rfl), fun _ => .inr rfl, rfl⟩
  | uartIrq l =>
    obtain rfl := Host.Outcome.next.inj h
    exact ⟨rfl, rfl, rfl, rfl, rfl, rfl, fun _ => .inl ⟨l, rfl⟩, fun h => absurd rfl h, rfl⟩
  | serialIn l =>
    obtain ⟨_, _, _, _, rfl⟩ := exec_serialIn_frame h
    exact ⟨rfl, rfl, rfl, rfl, rfl, rfl, fun _ => .inr (.inl ⟨l, rfl⟩), fun h => absurd rfl h, rfl⟩
  | uartClk l =>
    obtain ⟨_, _, rfl⟩ := exec_uartClk_frame h
    exact .of_kept rfl rfl rfl rfl rfl rfl rfl rfl rfl
  | calTick =>
    obtain ⟨_, _, _, _, _, _, rfl⟩ := exec_calTick_frame h
    exact .of_kept rfl rfl rfl rfl rfl rfl rfl rfl rfl
  | dachWr d =>
    obtain ⟨_, _, _, _, _, rfl⟩ := exec_dachWr_frame h
    exact .of_kept rfl rfl rfl rfl rfl rfl rfl rfl rfl
  | daclWr d =>
    obtain ⟨_, _, _, _, _, rfl⟩ := exec_daclWr_frame h
    exact .of_kept rfl rfl rfl rfl rfl rfl rfl rfl rfl
  | cselWr d =>
    obtain ⟨_, _, _, _, _, rfl⟩ := exec_cselWr_frame h
    exact .of_kept rfl rfl rfl rfl rfl rfl rfl rfl rfl
  | regselWr d =>
    obtain rfl := Host.Outcome.next.inj h
    exact .of_kept rfl rfl rfl rfl rfl rfl rfl rfl rfl
  | timerRd | timerWr | stateRd | openRd4 | openRd9 | openRdA | openRdC | ignoreWr4 | ignoreWr9 | ignoreWrD | ignoreWrF | out0
  | out2 | uartTxd =>
    have same := exec_sameRegisters rfl h
    exact .of_kept same.nmiOut same.ff same.ctrl same.regsel same.csmask same.dac same.uartIrq same.calArmed same.inbox

/-- Settles O51. -/
theorem nmiStateMachine : Obligations.NmiStateMachine := fun _ _ _ h => (exec_registersAfter h).nmiOut

/-- Settles O52. -/
theorem flipFlopWriters : Obligations.FlipFlopWriters := fun _ _ _ h => (exec_registersAfter h).ff

/-- Settles O53. -/
theorem registerWriters : Obligations.RegisterWriters := fun _ _ _ h =>
  have after := exec_registersAfter h
  ⟨after.ctrl, after.regsel, after.csmask, after.dac, after.uartIrq, after.calArmed, after.inbox⟩

/-! ## The invariants (10_state.md R36) -/

/-- What reads neither bit 1 nor the calibration timer keeps the invariants. -/
theorem StateInv.of_same {s t : State} (hs : StateInv s) (gate : gate0Bit t.ctrl = gate0Bit s.ctrl)
    (calArmed : t.calArmed = s.calArmed) (calTimer : t.calTimer = s.calTimer) (calPhase : t.calPhase = s.calPhase) :
    StateInv t where
  armed := by rw [calArmed, gate, hs.armed]
  idle h := by rw [calTimer]; exact hs.idle (calArmed ▸ h)
  positive f h := hs.positive f (calTimer ▸ h)
  phase h := by rw [calPhase]; exact hs.phase (calTimer ▸ h)

theorem SameRegisters.stateInv {s t : State} (same : SameRegisters s t) (hs : StateInv s) : StateInv t :=
  hs.of_same (by rw [same.ctrl]) same.calArmed same.calTimer same.calPhase

theorem stateInv_of_stopped {t : State} (armed : t.calArmed = gate0Bit t.ctrl) (stopped : t.calTimer = .stopped)
    (phase : t.calPhase = 0) : StateInv t where
  armed := armed
  idle _ := stopped
  positive f h := by rw [stopped] at h; cases h
  phase _ := phase

/-- A recompute of an armed block leaves a timer of R81's. -/
theorem stateInv_of_recomputed {t : State} {m : RealMark} (armed : t.calArmed = gate0Bit t.ctrl) (active : t.calArmed = true)
    (timer : t.calTimer = timerFor m) (phase : t.calPhase = 0) : StateInv t where
  armed := armed
  idle h := by rw [active] at h; cases h
  positive f h := (timerFor_running (timer ▸ h)).1
  phase _ := phase

theorem stateInv_writeChipSelect (e : Env) (mask : BitVec 6) {s : State} (hs : StateInv s) :
    StateInv (writeChipSelect e mask s) := by
  obtain ⟨ct, ph, n, hwrite, hidle, hactive⟩ := writeChipSelect_spec e mask s
  rw [hwrite, applyVoltage_eq]
  rcases Bool.eq_false_or_eq_true s.calArmed with active | idle
  · obtain ⟨rfl, rfl, rfl⟩ := hactive active
    exact stateInv_of_recomputed hs.armed active rfl rfl
  · obtain ⟨rfl, rfl, rfl⟩ := hidle idle
    exact hs.of_same rfl rfl rfl rfl

theorem stateInv_replay (e : Env) {s : State} (hs : StateInv s) : StateInv (replay e s) := by
  unfold replay
  split
  · exact stateInv_writeChipSelect e _ (stateInv_writeChipSelect e 0 hs)
  · exact hs

/-- Step 2 of a control write follows bit 1 (40_counter_gate.md R73). -/
theorem stateInv_controlWrite (e : Env) (d : Byte) {s : State} (hs : StateInv s) : StateInv (controlWrite e d s) := by
  obtain ⟨g, a, ct, ph, he, -, -, hnone, hfall, -, hrise⟩ := controlWrite_spec e d s
  rw [he]
  cases edge : gate0Bit (edges s.ctrl d)
  · obtain ⟨rfl, rfl, rfl⟩ := hnone edge
    have kept : s.ctrl.getLsbD 1 = d.getLsbD 1 := by rwa [gate0Bit_edges, bne_eq_false_iff_eq] at edge
    exact hs.of_same kept.symm rfl rfl rfl
  · cases new : gate0Bit d
    · obtain ⟨rfl, rfl, rfl⟩ := hfall edge new
      exact stateInv_of_stopped new.symm rfl rfl
    · have old : s.calArmed = false := by
        have differ : s.ctrl.getLsbD 1 ≠ d.getLsbD 1 := (gate0Bit_edges_iff s.ctrl d).1 edge
        rw [gate0Bit] at new
        rw [hs.armed, gate0Bit]
        rwa [new, ne_eq, Bool.not_eq_true] at differ
      obtain ⟨rfl, rfl, rfl⟩ := hrise edge new old
      exact stateInv_of_recomputed new.symm rfl rfl rfl

theorem stateInv_exec {i : Instr} {s t : State} (hs : StateInv s) (h : exec i s = .next t) : StateInv t := by
  cases i with
  | ctrlWr d => exact Host.Outcome.next.inj h ▸ stateInv_controlWrite _ d hs
  | dachWr d | daclWr d => exact Host.Outcome.next.inj h ▸ stateInv_replay _ (hs.of_same rfl rfl rfl rfl)
  | cselWr d => exact Host.Outcome.next.inj h ▸ stateInv_writeChipSelect _ _ hs
  | reset =>
    obtain rfl := Host.Outcome.next.inj h
    exact stateInv_of_stopped (show false = gate0Bit 0x00 by decide) rfl rfl
  | calTick =>
    obtain ⟨f, _, _, _, _, running, rfl⟩ := exec_calTick_frame h
    exact ⟨hs.armed, hs.idle, hs.positive, fun stopped => by cases running.symm.trans stopped⟩
  | uartClk l =>
    obtain ⟨_, _, rfl⟩ := exec_uartClk_frame h
    exact hs.of_same rfl rfl rfl rfl
  | serialIn l =>
    obtain ⟨_, _, _, _, rfl⟩ := exec_serialIn_frame h
    exact hs.of_same rfl rfl rfl rfl
  | regselWr | uartIrq => exact Host.Outcome.next.inj h ▸ hs.of_same rfl rfl rfl rfl
  | timerRd | timerWr | stateRd | openRd4 | openRd9 | openRdA | openRdC | ignoreWr4 | ignoreWr9 | ignoreWrD | ignoreWrF | out0
  | out2 | uartTxd => exact (exec_sameRegisters rfl h).stateInv hs

theorem stateInv_stepWord {w : StimulusWord} {s t : State} (hs : StateInv s) (h : stepWord w s = .next t) : StateInv t := by
  unfold stepWord at h
  split at h
  · exact stateInv_exec hs h
  · cases h

theorem stateInv_nextDraw {s : State} (hs : StateInv s) : StateInv (nextDraw s) := hs.of_same rfl rfl rfl rfl

theorem stateInv_stepAgents {s t : State} (hs : StateInv s) (h : stepAgents s = .next t) : StateInv t := by
  unfold stepAgents at h
  split at h
  · exact stateInv_exec (stateInv_nextDraw hs) h
  · exact Host.Outcome.next.inj h ▸ stateInv_nextDraw hs

/-- Settles O9: a step is a placed word's stimulus or the agents' choice, and every stimulus keeps the invariants. -/
theorem stepKeepsTheInvariant : Obligations.StepKeepsTheInvariant := by
  intro s t hs h
  cases hin : s.inbox with
  | nil =>
    rw [step_empty hin] at h
    exact stateInv_stepAgents hs h
  | cons w rest =>
    rw [step_placed hin] at h
    exact stateInv_stepWord (hs.of_same (t := { s with inbox := rest }) rfl rfl rfl rfl) h

/-- Settles O10. -/
theorem resetStateMeetsTheInvariant : Obligations.ResetStateMeetsTheInvariant := stateInv_of_stopped rfl rfl rfl

theorem stateInv_of_reachable {s : State} (h : Reachable s) : StateInv s := by
  induction h with
  | reset => exact resetStateMeetsTheInvariant
  | supplied s w _ ih => exact ih.of_same rfl rfl rfl rfl
  | stepped s t _ hstep ih => exact stepKeepsTheInvariant s t ih hstep

/-- Settles O11: a running timer is not idle, so the block is armed, and armed is bit 1. -/
theorem reachableStatesMeetTheInvariant : Obligations.ReachableStatesMeetTheInvariant := by
  intro s h
  have inv := stateInv_of_reachable h
  refine ⟨inv, ?_⟩
  rintro ⟨f, running⟩
  have active : s.calArmed = true := by
    cases idle : s.calArmed with
    | true => rfl
    | false => cases running.symm.trans (inv.idle idle)
  exact inv.armed.symm.trans active

end Sys2Proof.Machine
end

section
/-! PROOF. Save and restore (10_state.md R34), and the NMI in a fair run (60_exceptions.md R119, 70_reset_and_hazards.md R146). -/

namespace Sys2Proof.Machine

/-! ## Which saves a restore takes -/

theorem calTimerWf_iff (c : CalTimer) : calTimerWf c = true ↔ ∀ f, c = .running f → 0 < f.hertz := by
  cases c with
  | stopped => simp [calTimerWf]
  | running f => simp [calTimerWf, hertz_pos]

/-- In reals: R36 (b), R36 (c) and R27's positive frequency. -/
theorem savedWf_iff (v : Saved) : savedWf v = true ↔
    v.calArmed = gate0Bit v.ctrl ∧ (v.calArmed = false → v.calTimer = .stopped) ∧
      ∀ f, v.calTimer = .running f → 0 < f.hertz := by
  rw [savedWf, Bool.and_eq_true, Bool.and_eq_true, calTimerWf_iff, decide_eq_true_iff, and_assoc]
  cases v.calArmed <;> simp

theorem StateInv.savedWf {s : State} (hs : StateInv s) : savedWf s.save = true :=
  (savedWf_iff s.save).2 ⟨hs.armed, hs.idle, hs.positive⟩

/-- The phase is restored as saved where the invariants hold. -/
theorem StateInv.restoredPhase {s : State} (hs : StateInv s) :
    (if s.save.calTimer = .stopped then 0 else s.save.calPhase) = s.calPhase := by
  split
  next stopped => exact (hs.phase stopped).symm
  next => rfl

/-- A restore of a sound state's save puts its persisted elements into the other block. -/
theorem restore_save {s : State} (hs : StateInv s) (u : State) : State.restore s.save u = .next { u with
    ctrl := s.ctrl, ff := s.ff, c0out := s.c0out, calArmed := s.calArmed, dac := s.dac, regsel := s.regsel, csmask := s.csmask,
    uartIrq := s.uartIrq, calTimer := s.calTimer, calPhase := s.calPhase, nmiOut := s.nmiOut } := by
  rw [State.restore, if_pos hs.savedWf, hs.restoredPhase]
  rfl

theorem restore_of_broken {v : Saved} (h : ¬ savedWf v = true) (u : State) : State.restore v u = .refused .brokenSave :=
  if_neg h

theorem stateInv_of_restore {v : Saved} {u t : State} (h : State.restore v u = .next t) : StateInv t := by
  unfold State.restore at h
  split at h
  next wf =>
    obtain ⟨armed, idle, positive⟩ := (savedWf_iff v).1 wf
    obtain rfl := Host.Outcome.next.inj h
    exact ⟨armed, idle, positive, fun stopped => if_pos stopped⟩
  next => cases h

/-- Settles O58: a sound state's save is taken as it is, and each broken clause alone makes a save be refused. -/
theorem saveRestoreRoundTrip : Obligations.SaveRestoreRoundTrip := by
  refine ⟨fun s u hs => ⟨_, restore_save hs u, rfl, ?_⟩, fun v u broken => restore_of_broken ?_ u,
    fun v u t => stateInv_of_restore⟩
  · intro lines gain volt clk data trace draws inbox
    rw [lines, gain, volt, clk, data, trace, draws, inbox]
  · rw [savedWf_iff]
    rintro ⟨armed, idle, positive⟩
    rcases broken with h | ⟨h, running⟩ | ⟨f, running, low⟩
    · exact h armed
    · exact running (idle h)
    · exact absurd (positive f running) (not_lt.2 low)

/-! ## Fair runs -/

/-- Only a clock event and the reset write the remembered clock level (42_serial_link.md R110). -/
theorem exec_extClk {i : Instr} {s t : State} (h : exec i s = .next t) (hreset : i ≠ .reset) (hclk : ∀ l, i ≠ .uartClk l) :
    t.extClk = s.extClk := by
  cases i with
  | reset => exact absurd rfl hreset
  | uartClk l => exact absurd rfl (hclk l)
  | ctrlWr d =>
    obtain ⟨g, a, ct, ph, he, -⟩ := controlWrite_spec Config.env d s
    rw [← Host.Outcome.next.inj h, he]
  | serialIn l => obtain ⟨_, _, _, _, rfl⟩ := exec_serialIn_frame h; rfl
  | calTick => obtain ⟨_, _, _, _, _, _, rfl⟩ := exec_calTick_frame h; rfl
  | dachWr d => obtain ⟨_, _, _, _, _, rfl⟩ := exec_dachWr_frame h; rfl
  | daclWr d => obtain ⟨_, _, _, _, _, rfl⟩ := exec_daclWr_frame h; rfl
  | cselWr d => obtain ⟨_, _, _, _, _, rfl⟩ := exec_cselWr_frame h; rfl
  | regselWr | uartIrq => exact Host.Outcome.next.inj h ▸ rfl
  | timerRd | timerWr | stateRd | openRd4 | openRd9 | openRdA | openRdC | ignoreWr4 | ignoreWr9 | ignoreWrD | ignoreWrF | out0
  | out2 | uartTxd => exact (exec_sameRegisters rfl h).extClk

section
variable {st : Nat → State} {stim : Nat → Instr} {n : Nat}

/-- A reset would disable the NMI. -/
theorem stim_ne_reset (run : IsRun st stim) (enabled : ∀ m, n ≤ m → (st m).ctrl.getLsbD 5 = true) {m : Nat} (hm : n ≤ m) :
    stim m ≠ .reset := by
  intro hreset
  have cleared : (st (m + 1)).ctrl = ctrlAfter (stim m) (st m) := (exec_registersAfter (run m).2).ctrl
  have still := enabled (m + 1) (by omega)
  rw [cleared, hreset] at still
  exact absurd (show (0 : BitVec 8).getLsbD 5 = true from still) (by decide)

/-- After a falling clock edge the remembered level stays 0 as long as no rising one comes. -/
theorem extClk_stays_low (run : IsRun st stim) (enabled : ∀ m, n ≤ m → (st m).ctrl.getLsbD 5 = true)
    (noRise : ∀ m, n ≤ m → stim m ≠ .uartClk true) {m : Nat} (hm : n ≤ m) (hfall : stim m = .uartClk false) {j : Nat}
    (hj : m + 1 ≤ j) : (st j).extClk = some false := by
  have afterFall {k : Nat} (h : stim k = .uartClk false) : (st (k + 1)).extClk = some false := by
    have step := (run k).2
    rw [h] at step
    obtain ⟨_, _, heq⟩ := exec_uartClk_frame step
    rw [heq]
  induction j, hj using Nat.le_induction with
  | base => exact afterFall hfall
  | succ j hj ih =>
    by_cases fall : stim j = .uartClk false
    · exact afterFall fall
    · have noClock : ∀ l, stim j ≠ .uartClk l := fun l => by
        cases l
        · exact fall
        · exact noRise j (by omega)
      exact (exec_extClk (run j).2 (stim_ne_reset run enabled (by omega)) noClock).trans ih

/-- The clock's levels alternate and it goes on for ever, so a rising edge comes. -/
theorem exists_risingEdge (run : IsRun st stim) (fair : Fair st stim) (enabled : ∀ m, n ≤ m → (st m).ctrl.getLsbD 5 = true) :
    ∃ m, n ≤ m ∧ stim m = .uartClk true := by
  by_contra none
  have noRise : ∀ m, n ≤ m → stim m ≠ .uartClk true := fun m hm h => none ⟨m, hm, h⟩
  have clockFalls {m l} (hm : n ≤ m) (h : stim m = .uartClk l) : l = false := by
    cases l
    · rfl
    · exact absurd h (noRise m hm)
  obtain ⟨m, hm, l, hclk⟩ := fair.2 n
  obtain rfl := clockFalls hm hclk
  obtain ⟨k, hk, l, hclk'⟩ := fair.2 (m + 1)
  obtain rfl := clockFalls (by omega) hclk'
  have admitted := (run k).1
  rw [hclk'] at admitted
  exact of_decide_eq_true admitted (extClk_stays_low run enabled noRise hm hclk hk)

end

/-- Settles O59: a rising clock edge comes, and it copies `UART_IRQ`, which is 1, to the enabled NMI. -/
theorem nmiEventuallyFollowsTheUart : Obligations.NmiEventuallyFollowsTheUart := by
  intro st stim n run fair hon
  obtain ⟨m, hm, hclk⟩ := exists_risingEdge run fair fun m hm => (hon m hm).2
  obtain ⟨raised, enabled⟩ := hon m hm
  have copied : (st (m + 1)).nmiOut = nmiOutAfter (stim m) (st m) := (exec_registersAfter (run m).2).nmiOut
  refine ⟨m + 1, by omega, ?_⟩
  rw [copied, hclk, nmiOutAfter, if_pos ⟨rfl, enabled⟩, raised]

end Sys2Proof.Machine
end
